-- ==== Sys2Proof/Word.lean ====
section
/-! DEFINITION. The word and byte types of GOST89-CORE (spec 00_scope.md R7, R9) and their plainest arithmetic. -/

namespace Sys2Proof

/-- A 32-bit unsigned word (R7, R9). -/
abbrev Word := BitVec 32

/-- A byte, and an entry of an expanded table (R7, R24). -/
abbrev Byte := BitVec 8

/-- `a + b` on words: addition modulo 2^32 (R10). -/
abbrev add32 (a b : Word) : Word := a + b

end Sys2Proof
end

