-- ==== Sys2Proof/Machine/Bits.lean ====
section
/-! DEFINITION. Byte order, rotation and tabulation helpers (spec 00_scope.md R10, R11; 20_memory.md R52). -/

namespace Sys2Proof

/-- `byte(w, n) = w[8n+7 : 8n]` (R11). -/
def byteOf (w : Word) (n : Nat) : Byte := w.extractLsb' (8 * n) 8

/-- `pack_le(b0, b1, b2, b3)` (R11): little-endian, byte n in bits [8n+7:8n]. -/
def packLe (b0 b1 b2 b3 : Byte) : Word :=
  b0.setWidth 32 ||| (b1.setWidth 32 <<< 8) ||| (b2.setWidth 32 <<< 16) ||| (b3.setWidth 32 <<< 24)

/-- `rotl32(x, n)` for 0 < n < 32 (R10). -/
def rotl32 (x : Word) (n : Nat) : Word := (x <<< n) ||| (x >>> (32 - n))

/-- The words of a byte buffer, four bytes a word, the last word zero-padded (R11; `bytes` of R83). -/
def packBytes : List Byte → List Word
  | [] => []
  | [b0] => [packLe b0 0 0 0]
  | [b0, b1] => [packLe b0 b1 0 0]
  | [b0, b1, b2] => [packLe b0 b1 b2 0]
  | b0 :: b1 :: b2 :: b3 :: rest => packLe b0 b1 b2 b3 :: packBytes rest

/-- The vector of `f 0, ..., f (n-1)`. -/
def tabulate {α : Type} (n : Nat) (f : Fin n → α) : Vector α n := ⟨⟨List.ofFn f⟩, by simp⟩

end Sys2Proof
end

