-- ==== Sys2Proof/Syntax.lean ====
section
/-! DEFINITION. The 14 commands of GOST89-CORE (spec 30_encoding.md R76), one constructor per row of spec/opcode_table.json. -/

namespace Sys2Proof

/-- LEN, the unsigned 6-bit byte count of a command word (R72). -/
abbrev Len := BitVec 6

/-- ROW, the unsigned 3-bit S-box row index of a command word (R73). -/
abbrev RowIndex := BitVec 3

/-- A command with the fields its opcode uses (R76, R80). -/
inductive Instr where
  /-- 0x00 NOP (R120). -/
  | nop
  /-- 0x01 LOAD_KEY (R121). -/
  | loadKey (len : Len)
  /-- 0x02 LOAD_SBOX_ROW (R122). -/
  | loadSboxRow (row : RowIndex) (len : Len)
  /-- 0x03 EXPAND (R123). -/
  | expand
  /-- 0x04 LOAD_IV (R124). -/
  | loadIv (len : Len)
  /-- 0x05 CTR_INIT (R145). -/
  | ctrInit
  /-- 0x08 ECB_ENC (R143). -/
  | ecbEnc (len : Len)
  /-- 0x09 ECB_DEC (R144). -/
  | ecbDec (len : Len)
  /-- 0x0A CTR (R146). -/
  | ctr (len : Len)
  /-- 0x0C CFB_ENC (R147). -/
  | cfbEnc (len : Len)
  /-- 0x0D CFB_DEC (R148). -/
  | cfbDec (len : Len)
  /-- 0x10 MAC_RESET (R170). -/
  | macReset
  /-- 0x11 MAC_UPDATE (R171). -/
  | macUpdate (len : Len)
  /-- 0x12 MAC_LOAD (R172). -/
  | macLoad
deriving DecidableEq, Repr

end Sys2Proof
end

