-- ==== Sys2Proof/WellFormed.lean ====
section
/-! DEFINITION. Which commands have an encoding (spec 30_encoding.md R72, R78): a block command's LEN is at most 8. The widths of LEN and ROW are in their types. -/

namespace Sys2Proof

/-- LEN of a block command: "values 9..63 are illegal encodings" (R72). -/
def blockLenOk (len : Len) : Bool := decide (len ≤ 8)

/-- A command that some legal command word stands for (R76, "LEN legal"). -/
def Instr.wf : Instr → Bool
  | .nop => true
  | .loadKey _ => true
  | .loadSboxRow _ _ => true
  | .expand => true
  | .loadIv _ => true
  | .ctrInit => true
  | .ecbEnc len => blockLenOk len
  | .ecbDec len => blockLenOk len
  | .ctr len => blockLenOk len
  | .cfbEnc len => blockLenOk len
  | .cfbDec len => blockLenOk len
  | .macReset => true
  | .macUpdate len => blockLenOk len
  | .macLoad => true

end Sys2Proof
end

