-- ==== Sys2Proof/Decode.lean ====
section
/-! DEFINITION. The command decoder, total on every word (spec 30_encoding.md R70 to R81), and after it the encoder. -/

namespace Sys2Proof

/-- Why a command word is `Illegal`; each completes with ILLEGAL_COMMAND (R80, R181). -/
inductive DecodeError where
  /-- w[15:14] or w[31:19] is not 0 (R74). -/
  | reservedBits
  /-- The opcode is not assigned (R77). -/
  | reservedOpcode
  /-- LEN or ROW is not 0 on an opcode that does not use it (R75). -/
  | unusedField
  /-- LEN > 8 on a block command (R78). -/
  | lenTooLong
  /-- Fewer than the four byte lanes of a command word (R70, R81). -/
  | truncated
deriving DecidableEq, Repr

/-- OPC = w[7:0] (R71). -/
def opcField (w : Word) : BitVec 8 := w.extractLsb' 0 8

/-- LEN = w[13:8] (R72). -/
def lenField (w : Word) : Len := w.extractLsb' 8 6

/-- The reserved bits w[15:14] (R74). -/
def rsv0Field (w : Word) : BitVec 2 := w.extractLsb' 14 2

/-- ROW = w[18:16] (R73). -/
def rowField (w : Word) : RowIndex := w.extractLsb' 16 3

/-- The reserved bits w[31:19] (R74). -/
def rsv1Field (w : Word) : BitVec 13 := w.extractLsb' 19 13

/-- A command that uses neither LEN nor ROW: both must be 0 (R75). -/
def decodeBare (i : Instr) (len : Len) (row : RowIndex) : Except DecodeError Instr :=
  if len = 0 ∧ row = 0 then .ok i else .error .unusedField

/-- A command that uses LEN, any value, and not ROW (R72, R75). -/
def decodeLen (mk : Len → Instr) (len : Len) (row : RowIndex) : Except DecodeError Instr :=
  if row = 0 then .ok (mk len) else .error .unusedField

/-- A block command: LEN in 0..8, ROW unused (R72, R75, R78). -/
def decodeBlock (mk : Len → Instr) (len : Len) (row : RowIndex) : Except DecodeError Instr :=
  if row = 0 then (if len ≤ 8 then .ok (mk len) else .error .lenTooLong) else .error .unusedField

/-- The opcode map (R76), on the fields of a word whose reserved bits are 0. -/
def decodeFields (opc : BitVec 8) (len : Len) (row : RowIndex) : Except DecodeError Instr :=
  if opc = 0x00 then decodeBare .nop len row
  else if opc = 0x01 then decodeLen .loadKey len row
  else if opc = 0x02 then .ok (.loadSboxRow row len)
  else if opc = 0x03 then decodeBare .expand len row
  else if opc = 0x04 then decodeLen .loadIv len row
  else if opc = 0x05 then decodeBare .ctrInit len row
  else if opc = 0x08 then decodeBlock .ecbEnc len row
  else if opc = 0x09 then decodeBlock .ecbDec len row
  else if opc = 0x0A then decodeBlock .ctr len row
  else if opc = 0x0C then decodeBlock .cfbEnc len row
  else if opc = 0x0D then decodeBlock .cfbDec len row
  else if opc = 0x10 then decodeBare .macReset len row
  else if opc = 0x11 then decodeBlock .macUpdate len row
  else if opc = 0x12 then decodeBare .macLoad len row
  else .error .reservedOpcode

/-- `decode(w)` (R80): one operation with its fields, or the reason the word is illegal. -/
def decode (w : Word) : Except DecodeError Instr :=
  if rsv0Field w ≠ 0 ∨ rsv1Field w ≠ 0 then .error .reservedBits
  else decodeFields (opcField w) (lenField w) (rowField w)

/-- The decoder on the byte lanes of a command word, lane 0 first (R52), with the bytes after them. -/
def decodeBytes : List Byte → Except DecodeError (Instr × List Byte)
  | b0 :: b1 :: b2 :: b3 :: rest =>
    match decode (packLe b0 b1 b2 b3) with
    | .ok i => .ok (i, rest)
    | .error e => .error e
  | _ => .error .truncated

/-- The byte lanes of a word, lane 0 first (R52). -/
def bytesOf (w : Word) : List Byte := [byteOf w 0, byteOf w 1, byteOf w 2, byteOf w 3]

/-- What the decoder reads from an instruction of `nbits` bits `w`, bit 0 the least significant (every command
is exactly one word, R81; bits from `nbits` on are 0). -/
def decodeTableWord (nbits w : Nat) : Option Instr :=
  if w % 2 ^ nbits < 2 ^ 32 then
    match decodeBytes (bytesOf (BitVec.ofNat 32 (w % 2 ^ nbits))) with
    | .ok (i, _) => some i
    | .error _ => none
  else none

/-- OPC of a command (R76). -/
def Instr.opc : Instr → BitVec 8
  | .nop => 0x00
  | .loadKey _ => 0x01
  | .loadSboxRow _ _ => 0x02
  | .expand => 0x03
  | .loadIv _ => 0x04
  | .ctrInit => 0x05
  | .ecbEnc _ => 0x08
  | .ecbDec _ => 0x09
  | .ctr _ => 0x0A
  | .cfbEnc _ => 0x0C
  | .cfbDec _ => 0x0D
  | .macReset => 0x10
  | .macUpdate _ => 0x11
  | .macLoad => 0x12

/-- LEN of a command, 0 where the opcode does not use it (R75, R76). -/
def Instr.len : Instr → Len
  | .nop => 0
  | .loadKey len => len
  | .loadSboxRow _ len => len
  | .expand => 0
  | .loadIv len => len
  | .ctrInit => 0
  | .ecbEnc len => len
  | .ecbDec len => len
  | .ctr len => len
  | .cfbEnc len => len
  | .cfbDec len => len
  | .macReset => 0
  | .macUpdate len => len
  | .macLoad => 0

/-- ROW of a command, 0 where the opcode does not use it (R75, R76). -/
def Instr.row : Instr → RowIndex
  | .nop => 0
  | .loadKey _ => 0
  | .loadSboxRow row _ => row
  | .expand => 0
  | .loadIv _ => 0
  | .ctrInit => 0
  | .ecbEnc _ => 0
  | .ecbDec _ => 0
  | .ctr _ => 0
  | .cfbEnc _ => 0
  | .cfbDec _ => 0
  | .macReset => 0
  | .macUpdate _ => 0
  | .macLoad => 0

/-- `(r << 16) | (n << 8) | OPC`, the command word of R70 and of `cmd` in R83. -/
def encode (i : Instr) : Word :=
  (i.row.setWidth 32 <<< 16) ||| (i.len.setWidth 32 <<< 8) ||| i.opc.setWidth 32

/-- A row of spec/opcode_table.json: the word's fixed bits, and the largest LEN the row allows (R76, R78). -/
structure TableRow where
  mask : Word
  value : Word
  maxLen : Len
deriving DecidableEq, Repr

/-- A word matches a row: its fixed bits are the row's and its LEN is legal there. -/
def TableRow.Matches (r : TableRow) (w : Word) : Prop := w &&& r.mask = r.value ∧ lenField w ≤ r.maxLen

/-- The rows of spec/opcode_table.json, with the "LEN legal" column of R76. -/
def opcodeTable : List TableRow :=
  [⟨0xFFFFFFFF, 0x00000000, 0⟩, ⟨0xFFFFC0FF, 0x00000001, 63⟩, ⟨0xFFF8C0FF, 0x00000002, 63⟩,
   ⟨0xFFFFFFFF, 0x00000003, 0⟩, ⟨0xFFFFC0FF, 0x00000004, 63⟩, ⟨0xFFFFFFFF, 0x00000005, 0⟩,
   ⟨0xFFFFC0FF, 0x00000008, 8⟩, ⟨0xFFFFC0FF, 0x00000009, 8⟩, ⟨0xFFFFC0FF, 0x0000000A, 8⟩,
   ⟨0xFFFFC0FF, 0x0000000C, 8⟩, ⟨0xFFFFC0FF, 0x0000000D, 8⟩, ⟨0xFFFFFFFF, 0x00000010, 0⟩,
   ⟨0xFFFFC0FF, 0x00000011, 8⟩, ⟨0xFFFFFFFF, 0x00000012, 0⟩]

end Sys2Proof
end

