-- ==== Sys2Proof/Config.lean ====
section
/-! DEFINITION. What the spec leaves to the platform or leaves open (00_scope.md R8; 92_eei_decisions.md, parameters; 93_implementation_defined.md I8). Every constant here is opaque: no proof can see its value. -/

namespace Sys2Proof

/-- The two settings of `P_CTR_CARRY` (R8, R142). -/
inductive CtrCarry where
  /-- `END_AROUND`: the extra +1 when the high word's sum overflows (the spec's default). -/
  | endAround
  /-- `NONE`: plain addition modulo 2^32. -/
  | plain
deriving DecidableEq, Repr, Inhabited

/-- `P_CTR_CARRY` of R8, R142. A claim about it holds under both settings (D11). Log 9. -/
opaque Config.ctrCarry : CtrCarry

/-- `P_BASE` divided by 0x40: the platform's choice (R8). Log 10. -/
opaque Config.baseIndex : Nat

/-- `P_BASE`, the bus address of offset 0x00, "a multiple of 0x40" (R8). Log 10. -/
def Config.base : Nat := 0x40 * Config.baseIndex

/-- `P_BUSERR`: whether the bus can signal an error response for a refused access (R8, R53). Log 8. -/
opaque Config.busErr : Bool

/-- The word the `n`-th read of RESULT, IV or MAC made while BUSY = 1 returns: "in the model this is a free
draw" (R60, I8). Log 6. -/
opaque Config.freeWord : Nat → Word

end Sys2Proof
end

