-- ==== Sys2Proof/Machine/State.lean ====
section
/-! DEFINITION. The state of GOST89-CORE as plain data (spec 10_state.md R20 to R43), with the reasons a step can stop. -/

namespace Sys2Proof.Machine

/-- A 64-bit block: two words, low word first (R3, R16). -/
structure Block where
  w0 : Word
  w1 : Word
deriving DecidableEq, Repr

/-- One row of the substitution matrix: 16 entries of 4 bits (R23). -/
abbrev SboxRow := Vector (BitVec 4) 16

/-- The expanded tables: 4 tables of 256 bytes (R24). -/
abbrev ExpTables := Vector (Vector Byte 256) 4

/-- The eight words of KEY or of DATA (R22, R28). -/
abbrev Words8 := Vector Word 8

/-- The values of STATUS.ERR (R180): "legal values are 0..9" (R32). -/
inductive ErrCode where
  | ok
  | illegalCommand
  | invalidKeyLength
  | invalidIvLength
  | invalidBlockAlignment
  | invalidSboxRow
  | keyLocked
  | keyNotLoaded
  | sboxNotReady
  | ivNotLoaded
deriving DecidableEq, Repr

/-- The latched command: the accepted word and the DATA snapshot taken at acceptance (R39). -/
structure Latched where
  word : Word
  data : Words8
deriving DecidableEq, Repr

/-- The registers of the window (R51). -/
inductive Reg where
  | cmd
  | status
  | result0
  | result1
  | iv0
  | iv1
  | mac0
  | mac1
  | data (n : Fin 8)
deriving DecidableEq, Repr

/-- What a bus access does: MemRead or MemWrite (R13). -/
inductive AccessOp where
  | read
  | write (v : Word)
deriving DecidableEq, Repr

/-- A bus access: its address as an offset from P_BASE ("only the offset matters", R13; log 10), its width in
bits, and its number of beats (1 for a single access). -/
structure Access where
  off : Int
  bits : Nat
  beats : Nat
  op : AccessOp
deriving DecidableEq, Repr

/-- Why an access is refused (R53, R200). -/
inductive AccessProblem where
  /-- An 8-bit or 16-bit access, or one wider than 32 bits. -/
  | width
  /-- A burst. -/
  | burst
  /-- The address does not lie in the window. -/
  | outsideWindow
  /-- The address is not a multiple of 4. -/
  | misaligned
  /-- The reset input is asserted. -/
  | inReset
deriving DecidableEq, Repr

/-- The moves the host has (R217; `wait` is the polling loop of R83). -/
inductive HostOp where
  | access (a : Access)
  | wait
  | assertReset
  | releaseReset
deriving DecidableEq, Repr

/-- Who moves: the bus master or the engine (I15). -/
inductive Agent where
  | host
  | engine
deriving DecidableEq, Repr

/-- A completed legal access, as the host saw it. -/
inductive BusEvent where
  | read (r : Reg) (v : Word)
  | wrote (r : Reg) (v : Word)
deriving DecidableEq, Repr

/-- Reasons a step stops with a fault. There are none: "every error code of rule R180 is an ordinary, deterministic
outcome of a step ... none is a model fault" (R190). -/
inductive Fault
deriving DecidableEq, Repr

/-- Reasons a step is refused. -/
inductive Refusal where
  /-- Raised by `exec` for a command that has no meaning yet. Safe. -/
  | notModelled (mnemonic : String)
  /-- Raised by a host turn for an access that is not legal (R53) or is made while reset is asserted (R200);
  `busError` says whether the bus gets an error response (P_BUSERR). Safe: "a refusal (toward unprovable)". -/
  | refusedAccess (why : AccessProblem) (busError : Bool)
deriving DecidableEq, Repr

/-- The state of the machine. KEY_LOADED, ROW_LOADED[r], EXP_VALID and BUSY are stored once, as KEY, SBOX[r], EXP
and `pending` having a value (R43). -/
structure State where
  /-- KEY (R22). -/
  key : Option Words8
  /-- SBOX, row by row (R23). -/
  sbox : Vector (Option SboxRow) 8
  /-- EXP (R24). -/
  exp : Option ExpTables
  /-- STATUS.EXP_STALE (R27). -/
  expStale : Bool
  /-- IV (R25). -/
  iv : Block
  /-- STATUS.IV_LOADED (R27). -/
  ivLoaded : Bool
  /-- MAC (R26). -/
  mac : Block
  /-- DATA (R28). -/
  data : Words8
  /-- RESULT (R29). -/
  result : Block
  /-- STATUS.ERR (R32). -/
  err : ErrCode
  /-- STATUS.ERRS (R35). -/
  errs : Bool
  /-- STATUS.OVR (R36). -/
  ovr : Bool
  /-- The latched command (R39). -/
  pending : Option Latched
  /-- The reset input is asserted (R200). Log 12. -/
  resetLine : Bool
  /-- Model's own: the host's operations still to come (R82, R217). Log 2. -/
  prog : List HostOp
  /-- Model's own: the agents that move next (I15, P_LAT). Log 1. -/
  sched : List Agent
  /-- Model's own: the index of the next free word (R60, I8). Log 6. -/
  draws : Nat
  /-- Model's own: the accesses the host has made, newest first (R216). Log 15. -/
  log : List BusEvent
deriving DecidableEq, Repr

/-- The machine when reset is released (R41, R200). -/
def State.reset : State where
  key := none
  sbox := #v[none, none, none, none, none, none, none, none]
  exp := none
  expStale := false
  iv := ⟨0, 0⟩
  ivLoaded := false
  mac := ⟨0, 0⟩
  data := #v[0, 0, 0, 0, 0, 0, 0, 0]
  result := ⟨0, 0⟩
  err := .ok
  errs := false
  ovr := false
  pending := none
  resetLine := false
  prog := []
  sched := []
  draws := 0
  log := []

/-- What a step or a command answers. -/
abbrev Result := Host.Outcome State Fault Refusal

end Sys2Proof.Machine
end

