-- ==== Sys2Proof/Machine/Operands.lean ====
section
/-! DEFINITION. Operand assembly from the DATA snapshot (spec 30_encoding.md R79) and block truncation (42_modes.md R141). -/

namespace Sys2Proof.Machine

/-- `D[0..7]`: the snapshot latched at acceptance (R39, R79). With no command latched it is DATA itself, the snapshot an
acceptance at this moment takes (R56): no step of the machine runs a command so. Log 3. -/
def State.operands (s : State) : Words8 :=
  match s.pending with
  | some p => p.data
  | none => s.data

/-- The block `(D[0], D[1])`, low word first; the IV and MAC operands have the same layout (R79). -/
def blockOf (d : Words8) : Block := ⟨d[0], d[1]⟩

/-- Block byte `i`, for i in 0..7: `byte(w[i >> 2], i & 3)` (R79, R141). -/
def Block.byte (x : Block) (i : Nat) : Byte := if i < 4 then byteOf x.w0 i else byteOf x.w1 (i - 4)

/-- The 16 entry bytes of an S-box row operand: `byte(D[e >> 2], e & 3)` (R79, R122). -/
def rowBytes (d : Words8) : Vector Byte 16 :=
  tabulate 16 fun e => byteOf (d[e.val / 4]'(by omega)) (e.val % 4)

/-- The checks of LOAD_SBOX_ROW on the entries: none above 15, no two equal (R122, R185). -/
def rowOk (v : Vector Byte 16) : Bool := decide ((∀ b ∈ v.toList, b ≤ 15) ∧ v.toList.Nodup)

/-- The 4-bit entries of a row whose bytes passed `rowOk`. -/
def rowOf (v : Vector Byte 16) : SboxRow := tabulate 16 fun e => v[e].setWidth 4

/-- The XOR of two blocks, word by word. -/
def Block.xor (x y : Block) : Block := ⟨x.w0 ^^^ y.w0, x.w1 ^^^ y.w1⟩

/-- `Trunc(w0, w1, len)`: keep block bytes 0..len-1 and zero the others (R141). -/
def trunc (x : Block) (len : Nat) : Block :=
  let v : BitVec 64 := x.w1 ++ x.w0
  let u := if len < 8 then v &&& ((1#64 <<< (8 * len)) - 1#64) else v
  ⟨u.extractLsb' 0 32, u.extractLsb' 32 32⟩

/-- All eight rows, if every one has been loaded: ROW_LOADED = 0xFF (R123). -/
def allRows (m : Vector (Option SboxRow) 8) : Option (Vector SboxRow 8) :=
  if h : ∀ r : Fin 8, m[r].isSome then some (tabulate 8 fun r => m[r].get (h r)) else none

end Sys2Proof.Machine
end

