-- ==== Sys2Proof/Machine/Datapath.lean ====
section
/-! DEFINITION. The datapath: expander, round function, Feistel processor, MAC compression, counter step (spec 40_datapath.md R100 to R113; 42_modes.md R142). -/

namespace Sys2Proof.Machine

/-- `EXP[t][i]` of `Expand(S)`: row 2t+1 at the high nibble of i gives the high nibble, row 2t at the low nibble the low
nibble (R100, C2). -/
def expandEntry (m : Vector SboxRow 8) (t : Fin 4) (i : Fin 256) : Byte :=
  (((m[2 * t.val + 1]'(by omega))[i.val / 16]'(by omega)).setWidth 8 <<< 4) |||
    ((m[2 * t.val]'(by omega))[i.val % 16]'(by omega)).setWidth 8

/-- `Expand(S)` (R100). -/
def expand (m : Vector SboxRow 8) : ExpTables :=
  tabulate 4 fun t => tabulate 256 fun i => expandEntry m t i

/-- One table's entry for a byte, as a word. -/
def lookup (table : Vector Byte 256) (b : Byte) : Word := (table[b.toNat]'b.isLt).setWidth 32

/-- `Subst(t)`: byte n of t through table n, the result in byte n (R102, D10). -/
def subst (e : ExpTables) (t : Word) : Word :=
  lookup e[0] (byteOf t 0) ||| (lookup e[1] (byteOf t 1) <<< 8) |||
    (lookup e[2] (byteOf t 2) <<< 16) ||| (lookup e[3] (byteOf t 3) <<< 24)

/-- `F(x, k)`: the modular adder, the S-box lookup, the rotator (R103). -/
def roundF (e : ExpTables) (x k : Word) : Word := rotl32 (subst e (add32 x k)) 11

/-- What a command's rounds read: KEY and EXP (R113). -/
structure Cipher where
  key : Words8
  exp : ExpTables
deriving DecidableEq, Repr

/-- One odd round, which updates b, and one even round, which updates a (R105, R106, R109). The halves `(a, b)` are the
block's words `w0` and `w1`. -/
def doubleRound (c : Cipher) (x : Block) (ks : Fin 8 × Fin 8) : Block :=
  let b := x.w1 ^^^ roundF c.exp x.w0 c.key[ks.1]
  let a := x.w0 ^^^ roundF c.exp b c.key[ks.2]
  ⟨a, b⟩

/-- `PassUp(a, b)`: KEY[0..7] in order (R105). -/
def passUp (c : Cipher) (x : Block) : Block :=
  [(0, 1), (2, 3), (4, 5), (6, 7)].foldl (doubleRound c) x

/-- `PassDown(a, b)`: KEY[7..0] in order (R106). -/
def passDown (c : Cipher) (x : Block) : Block :=
  [(7, 6), (5, 4), (3, 2), (1, 0)].foldl (doubleRound c) x

/-- The two words of a block exchanged. -/
def Block.swap (x : Block) : Block := ⟨x.w1, x.w0⟩

/-- `Encrypt32`: three ascending passes, one descending, halves exchanged (R107). -/
def encrypt32 (c : Cipher) (x : Block) : Block :=
  (passDown c (passUp c (passUp c (passUp c x)))).swap

/-- `Decrypt32`: one ascending pass, three descending, halves exchanged (R108). -/
def decrypt32 (c : Cipher) (x : Block) : Block :=
  (passDown c (passDown c (passDown c (passUp c x)))).swap

/-- `Compress16`: two ascending passes, halves not exchanged (R110). -/
def compress16 (c : Cipher) (x : Block) : Block := passUp c (passUp c x)

/-- The direction/schedule selector of the Feistel processor (R38, R112). -/
inductive Schedule where
  | encrypt
  | decrypt
  | compress
deriving DecidableEq, Repr

/-- The number of rounds of a schedule (R3, R112). -/
def Schedule.rounds : Schedule → Nat
  | .encrypt => 32
  | .decrypt => 32
  | .compress => 16

/-- The key index used by round `r`, r = 1..32, in execution order (R109). -/
def Schedule.keyIndex (d : Schedule) (r : Nat) : Fin 8 :=
  match d with
  | .encrypt => if r ≤ 24 then Fin.ofNat 8 ((r - 1) % 8) else Fin.ofNat 8 (32 - r)
  | .decrypt => if r ≤ 8 then Fin.ofNat 8 (r - 1) else Fin.ofNat 8 (7 - (r - 9) % 8)
  | .compress => Fin.ofNat 8 ((r - 1) % 8)

/-- The hidden state of the Feistel processor while a command runs: the halves A and B, the number of rounds done, the
selector (R38). Log 14. -/
structure FeistelUnit where
  a : Word
  b : Word
  round : Nat
  sched : Schedule
deriving DecidableEq, Repr

/-- The unit at the start of a command. -/
def FeistelUnit.start (d : Schedule) (x : Block) : FeistelUnit := ⟨x.w0, x.w1, 0, d⟩

/-- One round: "odd r updates b and even r updates a" (R109, R112). -/
def FeistelUnit.tick (c : Cipher) (u : FeistelUnit) : FeistelUnit :=
  let k := c.key[u.sched.keyIndex (u.round + 1)]
  if (u.round + 1) % 2 = 1 then { u with b := u.b ^^^ roundF c.exp u.a k, round := u.round + 1 }
  else { u with a := u.a ^^^ roundF c.exp u.b k, round := u.round + 1 }

/-- `n` rounds. -/
def FeistelUnit.run (c : Cipher) : Nat → FeistelUnit → FeistelUnit
  | 0, u => u
  | n + 1, u => FeistelUnit.run c n (u.tick c)

/-- The block the unit delivers: exchanged for the full cipher, not for the MAC compression (R107, R108, R110). -/
def FeistelUnit.output (u : FeistelUnit) : Block :=
  match u.sched with
  | .encrypt => ⟨u.b, u.a⟩
  | .decrypt => ⟨u.b, u.a⟩
  | .compress => ⟨u.a, u.b⟩

/-- `CtrStep(c0, c1)` under a setting of P_CTR_CARRY (R142). The end-around test reads the high word before the add. -/
def ctrStep (carry : CtrCarry) (c : Block) : Block :=
  let n0 := add32 c.w0 0x01010101
  let n1 := add32 c.w1 0x01010104
  if c.w1 > 0xFEFEFEFB ∧ c.w1.getLsbD 31 = true ∧ carry = .endAround then ⟨n0, add32 n1 1⟩ else ⟨n0, n1⟩

end Sys2Proof.Machine
end

