-- ==== Sys2Proof/Machine/Flags.lean ====
section
/-! DEFINITION. The STATUS register: its fields, the word the host reads, and the write-1-to-clear write (spec 10_state.md R27, R31 to R37; 20_memory.md R58; 60_exceptions.md R180). -/

namespace Sys2Proof.Machine

/-- The code of each outcome (R180). -/
def ErrCode.code : ErrCode → BitVec 4
  | .ok => 0
  | .illegalCommand => 1
  | .invalidKeyLength => 2
  | .invalidIvLength => 3
  | .invalidBlockAlignment => 4
  | .invalidSboxRow => 5
  | .keyLocked => 6
  | .keyNotLoaded => 7
  | .sboxNotReady => 8
  | .ivNotLoaded => 9

/-- STATUS.BUSY: a command is latched (R31, R43). -/
def State.busy (s : State) : Bool := s.pending.isSome

/-- STATUS.KEY_LOADED (R27, R43). -/
def State.keyLoaded (s : State) : Bool := s.key.isSome

/-- STATUS.EXP_VALID (R27, R43). -/
def State.expValid (s : State) : Bool := s.exp.isSome

/-- STATUS.ROW_LOADED[r] (R27, R43). -/
def State.rowLoaded (s : State) (r : Fin 8) : Bool := s.sbox[r].isSome

/-- "The engine is *configured* when KEY_LOADED = 1 and EXP_VALID = 1" (R27). -/
def State.configured (s : State) : Bool := s.keyLoaded && s.expValid

/-- A flag in bit `n` of a word. -/
def flagBit (b : Bool) (n : Nat) : Word := (BitVec.ofBool b).setWidth 32 <<< n

/-- The ROW_LOADED field in bits 23:16: bit 16+r is ROW_LOADED[r] (R31). -/
def State.rowLoadedBits (s : State) : Word :=
  flagBit (s.rowLoaded 0) 16 ||| flagBit (s.rowLoaded 1) 17 ||| flagBit (s.rowLoaded 2) 18 |||
  flagBit (s.rowLoaded 3) 19 ||| flagBit (s.rowLoaded 4) 20 ||| flagBit (s.rowLoaded 5) 21 |||
  flagBit (s.rowLoaded 6) 22 ||| flagBit (s.rowLoaded 7) 23

/-- The word a read of STATUS returns (R31); the reserved bits read 0 (R37). -/
def State.statusWord (s : State) : Word :=
  flagBit s.busy 0 ||| (s.err.code.setWidth 32 <<< 4) ||| flagBit s.keyLoaded 8 ||| flagBit s.expValid 9 |||
  flagBit s.expStale 10 ||| flagBit s.ivLoaded 11 ||| flagBit s.errs 12 ||| flagBit s.ovr 13 ||| s.rowLoadedBits

/-- A host write to STATUS: bit 12 clears ERRS, bit 13 clears OVR, every other bit is ignored (R58). -/
def State.writeStatus (w : Word) (s : State) : State :=
  { s with errs := s.errs && !w.getLsbD 12, ovr := s.ovr && !w.getLsbD 13 }

end Sys2Proof.Machine
end

