-- ==== Sys2Proof/Machine/Ops.lean ====
section
/-! DEFINITION. The operations the commands share: completing, raising an error (this machine's counterpart of taking an exception; it has no return from one, spec 60_exceptions.md R192, R193), the configuration checks (42_modes.md R140), acceptance (20_memory.md R56), reset (70_reset_and_hazards.md R200), and the reads and writes of the register window (20_memory.md R51 to R60). -/

namespace Sys2Proof.Machine

/-- `complete()`: ERR gets 0, and the command leaves the engine (R14, R57). -/
def complete (s : State) : Result := .next { s with err := .ok, pending := none }

/-- `raise Error(code)`: ERR gets the code, ERRS gets 1, the command leaves the engine, and every other piece of state
keeps its value (R14, R192). -/
def raiseError (code : ErrCode) (s : State) : Result :=
  .next { s with err := code, errs := true, pending := none }

/-- LEN > 8 on a block command is ILLEGAL_COMMAND (R78). The decoder finds it first. Log 4. -/
def requireBlockLen (len : Len) (s : State) (k : Result) : Result :=
  if len > 8 then raiseError .illegalCommand s else k

/-- LEN in 1..7 on ECB_ENC, ECB_DEC or MAC_UPDATE is INVALID_BLOCK_ALIGNMENT (R184). -/
def requireAligned (len : Len) (s : State) (k : Result) : Result :=
  if 1 ≤ len ∧ len ≤ 7 then raiseError .invalidBlockAlignment s else k

/-- `RequireConfigured()`, handing on the key and tables it found (R140). EXP_STALE is not checked. -/
def requireConfigured (s : State) (k : Cipher → Result) : Result :=
  match s.key, s.exp with
  | none, _ => raiseError .keyNotLoaded s
  | some _, none => raiseError .sboxNotReady s
  | some key, some exp => k ⟨key, exp⟩

/-- The IV_LOADED check of the commands that use the stream state (R140, R189). -/
def requireIv (s : State) (k : Result) : Result :=
  if s.ivLoaded then k else raiseError .ivNotLoaded s

/-- A host write of `w` to CMD: acceptance, or a dropped write that sets OVR (R56). -/
def State.writeCmd (w : Word) (s : State) : State :=
  match s.pending with
  | none => { s with pending := some ⟨w, s.data⟩ }
  | some _ => { s with ovr := true }

/-- The offset of a register (R51). -/
def Reg.offset : Reg → Nat
  | .cmd => 0x00
  | .status => 0x04
  | .result0 => 0x08
  | .result1 => 0x0C
  | .iv0 => 0x10
  | .iv1 => 0x14
  | .mac0 => 0x18
  | .mac1 => 0x1C
  | .data n => 0x20 + 4 * n.val

/-- The register at word `n` of the window, n = 0..15 (R51). -/
def Reg.ofWord (n : Fin 16) : Reg :=
  if h : 8 ≤ n.val then .data ⟨n.val - 8, by omega⟩
  else if n = 0 then .cmd
  else if n = 1 then .status
  else if n = 2 then .result0
  else if n = 3 then .result1
  else if n = 4 then .iv0
  else if n = 5 then .iv1
  else if n = 6 then .mac0
  else .mac1

/-- The register an access reaches, or why it is refused (R53). -/
def Access.target (a : Access) : Except AccessProblem Reg :=
  if a.bits ≠ 32 then .error .width
  else if a.beats ≠ 1 then .error .burst
  else if h : 0 ≤ a.off ∧ a.off < 0x40 then
    if a.off % 4 = 0 then .ok (Reg.ofWord ⟨a.off.toNat / 4, by omega⟩) else .error .misaligned
  else .error .outsideWindow

/-- A read of RESULT, IV or MAC: the register while BUSY = 0, a free word while BUSY = 1 (R60). -/
def State.readWhenIdle (v : Word) (s : State) : Word × State :=
  if s.busy then (Config.freeWord s.draws, { s with draws := s.draws + 1 }) else (v, s)

/-- The word a read of a register returns (R51, R55, R60), and the state after it: only the free-word counter can have
moved (R54). -/
def State.readReg (r : Reg) (s : State) : Word × State :=
  match r with
  | .cmd => (0, s)
  | .status => (s.statusWord, s)
  | .result0 => s.readWhenIdle s.result.w0
  | .result1 => s.readWhenIdle s.result.w1
  | .iv0 => s.readWhenIdle s.iv.w0
  | .iv1 => s.readWhenIdle s.iv.w1
  | .mac0 => s.readWhenIdle s.mac.w0
  | .mac1 => s.readWhenIdle s.mac.w1
  | .data n => (s.data[n], s)

/-- A write of `v` to a register: ignored by the read-only registers (R55), and R56, R58, R28 for the others. -/
def State.writeReg (r : Reg) (v : Word) (s : State) : State :=
  match r with
  | .cmd => s.writeCmd v
  | .status => s.writeStatus v
  | .result0 => s
  | .result1 => s
  | .iv0 => s
  | .iv1 => s
  | .mac0 => s
  | .mac1 => s
  | .data n => { s with data := s.data.set n v }

/-- The reset input asserted: every register takes its reset value and a command in flight is abandoned (R200, R41). The
model's own fields, the host's program and what it has seen, are not the engine's and stay. Log 12. -/
def State.assertReset (s : State) : State :=
  { State.reset with resetLine := true, prog := s.prog, sched := s.sched, draws := s.draws, log := s.log }

end Sys2Proof.Machine
end

