-- ==== Sys2Proof/Machine/Configuration.lean ====
section
/-! DEFINITION. The configuration commands NOP, LOAD_KEY, LOAD_SBOX_ROW, EXPAND, LOAD_IV (spec 41_configuration.md R120 to R124). -/

namespace Sys2Proof.Machine

/-- NOP (R120). -/
def execNop (s : State) : Result := complete s

/-- LOAD_KEY (R121). -/
def execLoadKey (len : Len) (s : State) : Result :=
  if len ≠ 32 then raiseError .invalidKeyLength s
  else if s.keyLoaded then raiseError .keyLocked s
  else complete { s with key := some s.operands }

/-- LOAD_SBOX_ROW (R122). -/
def execLoadSboxRow (row : RowIndex) (len : Len) (s : State) : Result :=
  if len ≠ 16 then raiseError .invalidSboxRow s
  else if rowOk (rowBytes s.operands) then
    complete { s with sbox := s.sbox.set row.toNat (some (rowOf (rowBytes s.operands))) row.isLt, expStale := true }
  else raiseError .invalidSboxRow s

/-- EXPAND (R123). -/
def execExpand (s : State) : Result :=
  match allRows s.sbox with
  | none => raiseError .sboxNotReady s
  | some m => complete { s with exp := some (expand m), expStale := false }

/-- LOAD_IV (R124). -/
def execLoadIv (len : Len) (s : State) : Result :=
  if len ≠ 8 then raiseError .invalidIvLength s
  else complete { s with iv := blockOf s.operands, ivLoaded := true }

end Sys2Proof.Machine
end

