-- ==== Sys2Proof/Machine/Mac.lean ====
section
/-! DEFINITION. The MAC accumulator commands MAC_RESET, MAC_UPDATE, MAC_LOAD (spec 43_mac.md R170 to R172). -/

namespace Sys2Proof.Machine

/-- MAC_RESET (R170). -/
def execMacReset (s : State) : Result := complete { s with mac := ⟨0, 0⟩ }

/-- MAC_UPDATE (R171). -/
def execMacUpdate (len : Len) (s : State) : Result :=
  requireBlockLen len s <| requireAligned len s <| requireConfigured s fun c =>
    if len = 0 then complete s
    else complete { s with mac := compress16 c (s.mac.xor (blockOf s.operands)) }

/-- MAC_LOAD (R172). -/
def execMacLoad (s : State) : Result := complete { s with mac := blockOf s.operands }

end Sys2Proof.Machine
end

