-- ==== Sys2Proof/Machine/Modes.lean ====
section
/-! DEFINITION. The mode controller commands ECB_ENC, ECB_DEC, CTR_INIT, CTR, CFB_ENC, CFB_DEC (spec 42_modes.md R143 to R148). -/

namespace Sys2Proof.Machine

/-- ECB_ENC (R143). -/
def execEcbEnc (len : Len) (s : State) : Result :=
  requireBlockLen len s <| requireAligned len s <| requireConfigured s fun c =>
    if len = 0 then complete s
    else complete { s with result := encrypt32 c (blockOf s.operands) }

/-- ECB_DEC (R144). -/
def execEcbDec (len : Len) (s : State) : Result :=
  requireBlockLen len s <| requireAligned len s <| requireConfigured s fun c =>
    if len = 0 then complete s
    else complete { s with result := decrypt32 c (blockOf s.operands) }

/-- CTR_INIT (R145). -/
def execCtrInit (s : State) : Result :=
  requireConfigured s fun c => requireIv s <| complete { s with iv := encrypt32 c s.iv }

/-- CTR (R146): the counter advances before its keystream block. -/
def execCtr (len : Len) (s : State) : Result :=
  requireBlockLen len s <| requireConfigured s fun c => requireIv s <|
    if len = 0 then complete s
    else
      let counter := ctrStep Config.ctrCarry s.iv
      let g := encrypt32 c counter
      let p := trunc (blockOf s.operands) len.toNat
      complete { s with result := trunc (p.xor g) len.toNat, iv := counter }

/-- CFB_ENC (R147): the state becomes the ciphertext block before truncation. -/
def execCfbEnc (len : Len) (s : State) : Result :=
  requireBlockLen len s <| requireConfigured s fun c => requireIv s <|
    if len = 0 then complete s
    else
      let g := encrypt32 c s.iv
      let p := trunc (blockOf s.operands) len.toNat
      complete { s with result := trunc (p.xor g) len.toNat, iv := p.xor g }

/-- CFB_DEC (R148): the state becomes the zero-padded ciphertext consumed. -/
def execCfbDec (len : Len) (s : State) : Result :=
  requireBlockLen len s <| requireConfigured s fun c => requireIv s <|
    if len = 0 then complete s
    else
      let g := encrypt32 c s.iv
      let ct := trunc (blockOf s.operands) len.toNat
      complete { s with result := trunc (ct.xor g) len.toNat, iv := ct }

end Sys2Proof.Machine
end

