-- ==== Sys2Proof/Machine/Dispatch.lean ====
section
/-! DEFINITION. The meaning of every command: one arm per constructor of Instr. -/

namespace Sys2Proof.Machine

def exec (i : Instr) (s : State) : Host.Outcome State Fault Refusal :=
  match i with
  | .nop => Sys2Proof.Machine.execNop s
  | .loadKey len => Sys2Proof.Machine.execLoadKey len s
  | .loadSboxRow row len => Sys2Proof.Machine.execLoadSboxRow row len s
  | .expand => Sys2Proof.Machine.execExpand s
  | .loadIv len => Sys2Proof.Machine.execLoadIv len s
  | .ctrInit => Sys2Proof.Machine.execCtrInit s
  | .ecbEnc len => Sys2Proof.Machine.execEcbEnc len s
  | .ecbDec len => Sys2Proof.Machine.execEcbDec len s
  | .ctr len => Sys2Proof.Machine.execCtr len s
  | .cfbEnc len => Sys2Proof.Machine.execCfbEnc len s
  | .cfbDec len => Sys2Proof.Machine.execCfbDec len s
  | .macReset => Sys2Proof.Machine.execMacReset s
  | .macUpdate len => Sys2Proof.Machine.execMacUpdate len s
  | .macLoad => Sys2Proof.Machine.execMacLoad s

end Sys2Proof.Machine
end

