-- ==== Sys2Proof/Machine/Turns.lean ====
section
/-! DEFINITION. The two agents' turns and their interleaving: the engine completes the latched command (spec 20_memory.md R57), the host performs its next operation (70_reset_and_hazards.md R217; 30_encoding.md R82, R83). -/

namespace Sys2Proof.Machine

/-- Completion: the latched word is decoded and executed, or completes with ILLEGAL_COMMAND (R57, R80). With no command
latched the engine has nothing to do. -/
def engineTurn (s : State) : Result :=
  match s.pending with
  | none => .next s
  | some p =>
    match decode p.word with
    | .ok i => exec i s
    | .error _ => raiseError .illegalCommand s

/-- A refused access (R53): no state change; the model refuses whatever P_BUSERR is. -/
def refuseAccess (why : AccessProblem) : Result := .refused (.refusedAccess why Config.busErr)

/-- A completed read, with the value entered in the host's log. -/
def State.readLogged (r : Reg) (s : State) : State :=
  let rd := s.readReg r
  { rd.2 with log := .read r rd.1 :: rd.2.log }

/-- A completed write, entered in the host's log. -/
def State.writeLogged (r : Reg) (v : Word) (s : State) : State :=
  let s' := s.writeReg r v
  { s' with log := .wrote r v :: s'.log }

/-- One bus access (R53 to R60). "A bus access made while reset is asserted is refused" (R200). -/
def busAccess (a : Access) (s : State) : Result :=
  if s.resetLine then refuseAccess .inReset
  else
    match a.target with
    | .error why => refuseAccess why
    | .ok r =>
      match a.op with
      | .read => .next (s.readLogged r)
      | .write v => .next (s.writeLogged r v)

/-- One pass of `wait`: `L: rd STATUS; if bit 0 of the value is 1, go to L` (R83). `rest` is the program after the loop. -/
def pollStatus (rest : List HostOp) (s : State) : Result :=
  if s.resetLine then refuseAccess .inReset
  else if s.statusWord.getLsbD 0 then .next (s.readLogged .status)
  else .next { s.readLogged .status with prog := rest }

/-- The host's next operation (R217); a host whose program is over does nothing. -/
def hostTurn (s : State) : Result :=
  match s.prog with
  | [] => .next s
  | .access a :: rest => busAccess a { s with prog := rest }
  | .wait :: rest => pollStatus rest s
  | .assertReset :: rest => .next { s.assertReset with prog := rest }
  | .releaseReset :: rest => .next { s with resetLine := false, prog := rest }

/-- Who moves next: the schedule says; when it is used up, the engine while BUSY = 1 ("the engine's step is always enabled
while BUSY = 1", R214) and otherwise the host. Log 1. -/
def takeTurn (s : State) : Result :=
  match s.sched with
  | .engine :: rest => engineTurn { s with sched := rest }
  | .host :: rest => hostTurn { s with sched := rest }
  | [] => if s.busy then engineTurn s else hostTurn s

end Sys2Proof.Machine
end

