-- ==== Sys2Proof/Machine/Step.lean ====
section
/-! DEFINITION. One step of the machine, and the machine with a given command next to complete. -/

namespace Sys2Proof.Machine

/-- One turn of one agent (R57, R63, R217). -/
def step (s : State) : Host.Outcome State Fault Refusal := takeTurn s

/-- `s` with the command word `w` latched, DATA snapshotted as an acceptance does (R56), and the engine to move: the next
step runs exactly that command. It stands for the host's write of `w` to CMD. Log 2. -/
def State.withFetchWord (s : State) (nbits w : Nat) : State :=
  { s with pending := some ⟨BitVec.ofNat 32 (w % 2 ^ nbits), s.data⟩, sched := .engine :: s.sched }

end Sys2Proof.Machine
end

