-- ==== Sys2Proof/Machine/Script.lean ====
section
/-! DEFINITION. Bus primitives and the host script syntax as lists of host operations (spec 00_scope.md R13; 20_memory.md R52; 30_encoding.md R82, R83). -/

namespace Sys2Proof.Machine

/-- The bus address of an offset: `P_BASE + off` (R13). -/
def busAddress (off : Int) : Int := (Config.base : Int) + off

/-- The offset of a bus address. -/
def offsetOf (addr : Int) : Int := addr - (Config.base : Int)

/-- The bus address of byte lane `n` of a register: `P_BASE + off + n` (R52). -/
def laneAddress (r : Reg) (n : Fin 4) : Int := busAddress (r.offset + n.val : Nat)

/-- The byte in lane `n` of a register's word: bits [8n+7:8n] (R52). -/
def laneByte (w : Word) (n : Fin 4) : Byte := byteOf w n.val

/-- `MemRead(addr, 4)` (R13). -/
def memRead (addr : Int) : HostOp := .access ⟨offsetOf addr, 32, 1, .read⟩

/-- `MemWrite(addr, 4, v)` (R13). -/
def memWrite (addr : Int) (v : Word) : HostOp := .access ⟨offsetOf addr, 32, 1, .write v⟩

namespace Script

/-- `wr <REG>, <imm32>` (R82). -/
def wr (r : Reg) (v : Word) : HostOp := .access ⟨r.offset, 32, 1, .write v⟩

/-- `rd <REG>` (R82). -/
def rd (r : Reg) : HostOp := .access ⟨r.offset, 32, 1, .read⟩

/-- `cmd <MNEMONIC> [len=<n>] [row=<r>]` (R83): the assembler refuses a field the decoder would reject. -/
def cmd (i : Instr) : Option (List HostOp) := if i.wf then some [wr .cmd (encode i)] else none

/-- `wr DATA<i>, w` for the words given, from DATA<n> on. -/
def dataFrom (n : Nat) : List Word → Option (List HostOp)
  | [] => some []
  | w :: ws =>
    if h : n < 8 then (dataFrom (n + 1) ws).map (wr (.data ⟨n, h⟩) w :: ·) else none

/-- `data <w0>[, ... <w7>]` (R83): at most eight words. -/
def data (ws : List Word) : Option (List HostOp) := dataFrom 0 ws

/-- `bytes "<ascii>"` (R83): the string's bytes packed, the last word zero-padded. -/
def bytes (bs : List Byte) : Option (List HostOp) := data (packBytes bs)

/-- `wait` (R83). -/
def wait : HostOp := .wait

/-- `check` (R83): `rd STATUS`. -/
def check : HostOp := rd .status

/-- What the caller of `check` requires of the word read: bits 7:4 are 0 (R83). -/
def checkOk (v : Word) : Bool := v.extractLsb' 4 4 == 0

end Script

end Sys2Proof.Machine
end

