-- ==== Sys2Proof/Safety.lean ====
section
/-! DEFINITION. The terms claims are stated in: the invariant of the machine, the errors that apply to a command, sequences of block commands, and the end of a host program (spec 10_state.md R23, R27; 60_exceptions.md R191; 42_modes.md R149; 70_reset_and_hazards.md R216). -/

namespace Sys2Proof

/-- The commands that run the Feistel processor (R140, R187). -/
def Instr.usesCipher : Instr → Bool
  | .nop => false
  | .loadKey _ => false
  | .loadSboxRow _ _ => false
  | .expand => false
  | .loadIv _ => false
  | .ctrInit => true
  | .ecbEnc _ => true
  | .ecbDec _ => true
  | .ctr _ => true
  | .cfbEnc _ => true
  | .cfbDec _ => true
  | .macReset => false
  | .macUpdate _ => true
  | .macLoad => false

/-- The commands that use the stream state (R140, R189). -/
def Instr.usesIv : Instr → Bool
  | .nop => false
  | .loadKey _ => false
  | .loadSboxRow _ _ => false
  | .expand => false
  | .loadIv _ => false
  | .ctrInit => true
  | .ecbEnc _ => false
  | .ecbDec _ => false
  | .ctr _ => true
  | .cfbEnc _ => true
  | .cfbDec _ => true
  | .macReset => false
  | .macUpdate _ => false
  | .macLoad => false

/-- The commands whose input must be block-aligned (R184). -/
def Instr.needsWholeBlock : Instr → Bool
  | .nop => false
  | .loadKey _ => false
  | .loadSboxRow _ _ => false
  | .expand => false
  | .loadIv _ => false
  | .ctrInit => false
  | .ecbEnc _ => true
  | .ecbDec _ => true
  | .ctr _ => false
  | .cfbEnc _ => false
  | .cfbDec _ => false
  | .macReset => false
  | .macUpdate _ => true
  | .macLoad => false

end Sys2Proof

namespace Sys2Proof.Machine

/-- "Every row is a permutation of {0..15}" (R23). -/
abbrev SboxRow.IsPerm (r : SboxRow) : Prop := r.toList.Nodup ∧ ∀ x : BitVec 4, x ∈ r.toList

/-- What every run keeps.
`rowsPerm`: a loaded row is a permutation (R23).
`expOfPerms`: the tables in use were expanded from eight permutations (R24, R101).
`expFresh`: valid tables that are not stale are the expansion of the matrix as it stands (R24, R27).
`rowsStayLoaded`: EXP_VALID implies ROW_LOADED = 0xFF (R27, R123).
`staleSinceReset`: with no EXPAND since reset, EXP_STALE = 0 says that no row was loaded (R27).
`ivUnread`: IV reads 0 until LOAD_IV has succeeded (R25).
`heldInReset`: while reset is asserted every register is at its reset value and no command is in flight (R200). -/
structure State.Inv (s : State) : Prop where
  rowsPerm : ∀ (r : Fin 8) (row : SboxRow), s.sbox[r] = some row → row.IsPerm
  expOfPerms : ∀ e, s.exp = some e → ∃ m : Vector SboxRow 8, (∀ r : Fin 8, m[r].IsPerm) ∧ e = expand m
  expFresh : ∀ e, s.exp = some e → s.expStale = false → ∃ m, allRows s.sbox = some m ∧ e = expand m
  rowsStayLoaded : s.expValid = true → ∀ r, s.rowLoaded r = true
  staleSinceReset : s.expValid = false → s.expStale = false → ∀ r, s.rowLoaded r = false
  ivUnread : s.ivLoaded = false → s.iv = ⟨0, 0⟩
  heldInReset : s.resetLine = true →
    s = { State.reset with resetLine := true, prog := s.prog, sched := s.sched, draws := s.draws, log := s.log }

/-- An error code applies to a command in a state, whatever else applies (R181 to R189). -/
def ErrCode.Applies (c : ErrCode) (i : Instr) (s : State) : Prop :=
  match c with
  | .ok => True
  | .illegalCommand => i.wf = false
  | .invalidKeyLength => ∃ len, i = .loadKey len ∧ len ≠ 32
  | .invalidIvLength => ∃ len, i = .loadIv len ∧ len ≠ 8
  | .invalidSboxRow => ∃ row len, i = .loadSboxRow row len ∧
      (len ≠ 16 ∨ (∃ e : Fin 16, (rowBytes s.operands)[e] > 15) ∨
        ∃ e1 e2 : Fin 16, e1 ≠ e2 ∧ (rowBytes s.operands)[e1] = (rowBytes s.operands)[e2])
  | .invalidBlockAlignment => i.needsWholeBlock = true ∧ 1 ≤ i.len ∧ i.len ≤ 7
  | .keyLocked => ∃ len, i = .loadKey len ∧ s.keyLoaded = true
  | .keyNotLoaded => i.usesCipher = true ∧ s.keyLoaded = false
  | .sboxNotReady =>
      (i = .expand ∧ ∃ r, s.rowLoaded r = false) ∨ (i.usesCipher = true ∧ s.expValid = false)
  | .ivNotLoaded => i.usesIv = true ∧ s.ivLoaded = false

/-- The order of R191, with OK after every error. -/
def errorPriority : List ErrCode :=
  [.illegalCommand, .invalidKeyLength, .invalidIvLength, .invalidSboxRow, .invalidBlockAlignment,
   .keyLocked, .keyNotLoaded, .sboxNotReady, .ivNotLoaded, .ok]

/-- `c` is the first code of `errorPriority` that applies: "exactly one code is reported" (R191). -/
def ErrCode.IsReported (c : ErrCode) (i : Instr) (s : State) : Prop :=
  ∃ before after, errorPriority = before ++ c :: after ∧ c.Applies i s ∧ ∀ d ∈ before, ¬ d.Applies i s

/-- `s` with command `i` in flight on the block `x` (R56, R79). -/
def State.latchBlock (s : State) (i : Instr) (x : Block) : State :=
  { s with pending := some ⟨encode i, (s.data.set 0 x.w0).set 1 x.w1⟩ }

/-- One block command after another, each on its own LEN and block: the RESULT each leaves, and the last state (R149). -/
def stream (mk : Len → Instr) : List (Len × Block) → State → Option (List Block × State)
  | [], s => some ([], s)
  | (len, x) :: rest, s =>
    match exec (mk len) (s.latchBlock (mk len) x) with
    | .next t => (stream mk rest t).map fun p => (t.result :: p.1, p.2)
    | .fault _ => none
    | .refused _ => none

/-- A legal access (R53): 32 bits, single, at a multiple of 4, in the window. -/
abbrev Access.Legal (a : Access) : Prop := a.bits = 32 ∧ a.beats = 1 ∧ 0 ≤ a.off ∧ a.off < 0x40 ∧ a.off % 4 = 0

/-- "A STATUS read after its last CMD write has returned BUSY = 0" (R216), from a log, newest first. DESIGN CHOICE: every access
in the log counts as the program's own (log 21), and a log with no CMD write meets the condition (log 16). -/
def sawIdle : List BusEvent → Bool
  | [] => true
  | .wrote .cmd _ :: _ => false
  | .read .status v :: rest => !v.getLsbD 0 || sawIdle rest
  | _ :: rest => sawIdle rest

/-- The host program has ended (R216), the program being every access in the log with the operations still to come (log 21). "No
refused access occurred" holds of every state, since a refused access ends the
run. -/
def State.programEnded (s : State) : Bool := s.prog.isEmpty && sawIdle s.log

/-- A host that respects R205 and R53 at its next operation: no CMD write while BUSY = 1, no illegal access. -/
def State.hostDisciplined (s : State) : Prop :=
  match s.prog with
  | .access a :: _ =>
    a.Legal ∧ s.resetLine = false ∧ ∀ v, a.op = .write v → a.target = .ok .cmd → s.busy = false
  | .wait :: _ => s.resetLine = false
  | _ => True

end Sys2Proof.Machine
end

