-- ==== Sys2Proof/Certificates/Slice0/Obligations.lean ====
section
/-! DEFINITION. The statements for the provers, from the numbered rules of spec/. -/

open Sys2Proof Sys2Proof.Machine

/-! ### Encoding and decoding (30_encoding.md) -/

/-- R70, R76: decoding the word of a well-formed command gives that command, with every operand at every value its
encoding admits. -/
def Obligations.DecodeEncodeAgree : Prop :=
  ∀ i : Instr, i.wf = true → decode (encode i) = .ok i

/-- R81, R80: each word has at most one meaning, and the decoder gives only well-formed commands. -/
def Obligations.DecodedWordIsItsEncoding : Prop :=
  ∀ (w : Word) (i : Instr), decode w = .ok i → encode i = w ∧ i.wf = true

/-- R76, R80 and spec/opcode_table.json: the decoder accepts exactly the words that match a row of the table with a LEN
that is legal there. -/
def Obligations.DecoderAcceptsExactlyTheTable : Prop :=
  ∀ w : Word, (∃ i, decode w = .ok i) ↔ ∃ r ∈ opcodeTable, r.Matches w

/-- R84: the worked encodings decode to the commands they stand for, and the illegal ones to no command. -/
def Obligations.WorkedEncodingsDecode : Prop :=
  decode 0x00000000 = .ok .nop ∧ decode 0x00002001 = .ok (.loadKey 32) ∧
  decode 0x00001002 = .ok (.loadSboxRow 0 16) ∧ decode 0x00071002 = .ok (.loadSboxRow 7 16) ∧
  decode 0x00000003 = .ok .expand ∧ decode 0x00000804 = .ok (.loadIv 8) ∧ decode 0x00000005 = .ok .ctrInit ∧
  decode 0x00000808 = .ok (.ecbEnc 8) ∧ decode 0x00000809 = .ok (.ecbDec 8) ∧ decode 0x0000080A = .ok (.ctr 8) ∧
  decode 0x0000030A = .ok (.ctr 3) ∧ decode 0x0000080C = .ok (.cfbEnc 8) ∧ decode 0x0000050D = .ok (.cfbDec 5) ∧
  decode 0x00000010 = .ok .macReset ∧ decode 0x00000811 = .ok (.macUpdate 8) ∧ decode 0x00000012 = .ok .macLoad ∧
  (∀ w ∈ ([0x00000908, 0x00010808, 0x80000808, 0x00004808, 0x0000000B, 0x00000103] : List Word),
    (decode w).toOption = none)

/-- R74, R75, R77, R181: a latched word with a reserved bit set, with a field its opcode does not use, or with a reserved
opcode, completes with ILLEGAL_COMMAND and no other effect. -/
def Obligations.IllegalWordCompletesWithIllegalCommand : Prop :=
  ∀ (s : State) (p : Latched), s.pending = some p →
    (p.word.extractLsb' 14 2 ≠ 0 ∨ p.word.extractLsb' 19 13 ≠ 0 ∨
      (p.word.extractLsb' 16 3 ≠ 0 ∧ p.word.extractLsb' 0 8 ≠ 0x02) ∨
      (p.word.extractLsb' 8 6 ≠ 0 ∧ p.word.extractLsb' 0 8 ∈ ([0x00, 0x03, 0x05, 0x10, 0x12] : List (BitVec 8))) ∨
      p.word.extractLsb' 0 8 ∈ ([0x06, 0x07, 0x0B, 0x0E, 0x0F] : List (BitVec 8)) ∨
      0x13 ≤ p.word.extractLsb' 0 8) →
    engineTurn s = .next { s with err := .illegalCommand, errs := true, pending := none }

/-- R78: LEN > 8 on a block command is ILLEGAL_COMMAND, found by the decoder; the other LEN checks are execution errors. -/
def Obligations.LenChecksSplitBetweenDecoderAndCommand : Prop :=
  (∀ (s : State) (p : Latched), s.pending = some p → p.word.extractLsb' 8 6 > (8 : Len) →
    p.word.extractLsb' 0 8 ∈ ([0x08, 0x09, 0x0A, 0x0C, 0x0D, 0x11] : List (BitVec 8)) →
    (∃ e, decode p.word = .error e) ∧
      engineTurn s = .next { s with err := .illegalCommand, errs := true, pending := none }) ∧
  (∀ (s : State) (len : Len), 1 ≤ len → len ≤ 7 → ∀ i ∈ [Instr.ecbEnc len, .ecbDec len, .macUpdate len],
    exec i s = .next { s with err := .invalidBlockAlignment, errs := true, pending := none }) ∧
  (∀ (s : State) (len : Len), len ≠ 32 →
    exec (.loadKey len) s = .next { s with err := .invalidKeyLength, errs := true, pending := none }) ∧
  (∀ (s : State) (len : Len), len ≠ 8 →
    exec (.loadIv len) s = .next { s with err := .invalidIvLength, errs := true, pending := none }) ∧
  (∀ (s : State) (row : RowIndex) (len : Len), len ≠ 16 →
    exec (.loadSboxRow row len) s = .next { s with err := .invalidSboxRow, errs := true, pending := none })

/-! ### Steps (20_memory.md) -/

/-- R57, R80: an engine step with a legal word latched is that command's execution, and with an illegal one latched it is
ILLEGAL_COMMAND, the schedule advanced; the engine also moves when the schedule is used up and BUSY = 1 (log 1). -/
def Obligations.EngineStepRunsLatchedCommand : Prop :=
  ∀ (s : State) (p : Latched), s.pending = some p →
    (∀ i, decode p.word = .ok i →
      (∀ rest, s.sched = .engine :: rest → step s = exec i { s with sched := rest }) ∧
      (s.sched = [] → step s = exec i s)) ∧
    (∀ e, decode p.word = .error e →
      (∀ rest, s.sched = .engine :: rest →
        step s = .next { s with sched := rest, err := .illegalCommand, errs := true, pending := none }) ∧
      (s.sched = [] → step s = .next { s with err := .illegalCommand, errs := true, pending := none }))

/-- Log 1, log 2: a host step performs the host's next operation, the schedule advanced; the host also moves when the schedule
is used up and no command is in flight. An access, a release of reset, and nothing to do, are what they say. One pass of `wait`
(R83; one operation of the model, log 13) reads STATUS, stays while bit 0 of the word read is 1 and goes on when it is 0, and
is refused while reset is asserted (R200). -/
def Obligations.HostStepPerformsNextOperation : Prop :=
  ∀ s : State,
    (∀ rest, s.sched = .host :: rest → step s = hostTurn { s with sched := rest }) ∧
    (s.sched = [] → s.pending = none → step s = hostTurn s) ∧
    (∀ a ops, s.prog = .access a :: ops → hostTurn s = busAccess a { s with prog := ops }) ∧
    (∀ ops, s.prog = .releaseReset :: ops → hostTurn s = .next { s with resetLine := false, prog := ops }) ∧
    (s.prog = [] → hostTurn s = .next s) ∧
    ∀ ops, s.prog = .wait :: ops →
      (s.resetLine = true → hostTurn s = .refused (.refusedAccess .inReset Config.busErr)) ∧
      (s.resetLine = false → s.statusWord.getLsbD 0 = true →
        hostTurn s = .next { s with log := .read .status s.statusWord :: s.log }) ∧
      (s.resetLine = false → s.statusWord.getLsbD 0 = false →
        hostTurn s = .next { s with prog := ops, log := .read .status s.statusWord :: s.log })

/-- Log 2: the step after `withFetchWord` executes exactly the command whose word was placed, on DATA as it stands. -/
def Obligations.FetchWordRunsTheCommand : Prop :=
  ∀ (s : State) (i : Instr), i.wf = true →
    step (s.withFetchWord 32 (encode i).toNat) = exec i { s with pending := some ⟨encode i, s.data⟩ }

/-- R190: no command stops the machine: every one answers a next state, with BUSY = 0. -/
def Obligations.EveryCommandCompletes : Prop :=
  ∀ (i : Instr) (s : State), ∃ t, exec i s = .next t ∧ t.pending = none

/-- R190, R205: an operation of a host that makes no illegal access and no CMD write while BUSY = 1 never stops the
machine and never sets OVR. -/
def Obligations.DisciplinedHostIsNeverRefused : Prop :=
  ∀ s : State, s.hostDisciplined → ∃ t, step s = .next t ∧ (s.ovr = false → t.ovr = false)

/-- R214, R83: `wait` ends, whatever the schedule: the host's polling loop finishes with no command in flight. It rests on the
model's choices of log 1 (once the schedule is used up, the engine moves while BUSY = 1 and otherwise the host) and of log 13
(`wait` is one operation, one STATUS read a turn). -/
def Obligations.WaitEndsUnderEverySchedule : Prop :=
  ∀ s : State, s.prog = [.wait] → s.resetLine = false →
    ∃ n t, n ≤ s.sched.length + 2 ∧ Host.Core.run Sys2Proof.core n s = .next t ∧ t.prog = [] ∧ t.pending = none ∧
      sawIdle t.log = true

/-! ### Configuration commands (41_configuration.md) -/

/-- R120: NOP writes 0 to ERR and changes nothing else, in every state. -/
def Obligations.NopWritesOnlyErr : Prop :=
  encode .nop = 0x00000000 ∧ ∀ s : State, exec .nop s = .next { s with err := .ok, pending := none }

/-- R121, R182, R186: LOAD_KEY loads the eight operand words once; a wrong length comes first; a second key is refused. -/
def Obligations.LoadKeySetsTheKeyOnce : Prop :=
  encode (.loadKey 32) = 0x00002001 ∧ ∀ s : State,
    (s.key = none → exec (.loadKey 32) s = .next { s with key := some s.operands, err := .ok, pending := none }) ∧
    (s.key ≠ none → exec (.loadKey 32) s = .next { s with err := .keyLocked, errs := true, pending := none }) ∧
    (∀ len : Len, len ≠ 32 →
      exec (.loadKey len) s = .next { s with err := .invalidKeyLength, errs := true, pending := none })

/-- R122, R185: LOAD_SBOX_ROW of 16 distinct 4-bit entries, one a byte of D[0..3], loads the row, marks it loaded and the
tables stale; a wrong length, an entry byte above 15, or two equal entries give INVALID_SBOX_ROW and nothing else. -/
def Obligations.LoadSboxRowLoadsExactlyPermutations : Prop :=
  ∀ (s : State) (row : RowIndex),
    encode (.loadSboxRow row 16) = 0x00001002 ||| (row.setWidth 32 <<< 16) ∧
    ((∀ e : Fin 16, (rowBytes s.operands)[e] ≤ 15) →
      (∀ e1 e2 : Fin 16, e1 ≠ e2 → (rowBytes s.operands)[e1] ≠ (rowBytes s.operands)[e2]) →
      ∃ r : SboxRow, r.IsPerm ∧
        (∀ e : Fin 16, r[e].setWidth 8 = byteOf (s.operands[e.val / 4]'(by omega)) (e.val % 4)) ∧
        exec (.loadSboxRow row 16) s = .next
          { s with sbox := s.sbox.set row.toNat (some r) row.isLt, expStale := true, err := .ok, pending := none }) ∧
    ∀ len : Len,
      (len ≠ 16 ∨ (∃ e : Fin 16, (rowBytes s.operands)[e] > 15) ∨
        ∃ e1 e2 : Fin 16, e1 ≠ e2 ∧ (rowBytes s.operands)[e1] = (rowBytes s.operands)[e2]) →
      exec (.loadSboxRow row len) s = .next { s with err := .invalidSboxRow, errs := true, pending := none }

/-- R100, R123: with all rows loaded EXPAND writes EXP[t][i] = (S[2t+1][i[7:4]] << 4) | S[2t][i[3:0]] and the flags; with a
row missing it raises SBOX_NOT_READY. -/
def Obligations.ExpandBuildsTheTables : Prop :=
  encode .expand = 0x00000003 ∧ ∀ s : State,
    (∀ m : Vector SboxRow 8, (∀ r : Fin 8, s.sbox[r] = some m[r]) →
      ∃ e : ExpTables,
        (∀ (t : Fin 4) (i : Fin 256), e[t][i] =
          (((m[2 * t.val + 1]'(by omega))[i.val / 16]'(by omega)).setWidth 8 <<< 4) |||
            ((m[2 * t.val]'(by omega))[i.val % 16]'(by omega)).setWidth 8) ∧
        exec .expand s = .next { s with exp := some e, expStale := false, err := .ok, pending := none }) ∧
    ((∃ r : Fin 8, s.sbox[r] = none) →
      exec .expand s = .next { s with err := .sboxNotReady, errs := true, pending := none })

/-- R124, R183: LOAD_IV of 8 bytes sets IV to the operand words, in every state; another length is INVALID_IV_LENGTH. -/
def Obligations.LoadIvSetsTheStreamState : Prop :=
  encode (.loadIv 8) = 0x00000804 ∧ ∀ s : State,
    exec (.loadIv 8) s =
      .next { s with iv := ⟨s.operands[0], s.operands[1]⟩, ivLoaded := true, err := .ok, pending := none } ∧
    ∀ len : Len, len ≠ 8 →
      exec (.loadIv len) s = .next { s with err := .invalidIvLength, errs := true, pending := none }

/-! ### Mode commands (42_modes.md) -/

/-- R143, R144: on a configured engine ECB_ENC and ECB_DEC of a whole block write RESULT and ERR and nothing else. -/
def Obligations.EcbWritesTheResultBlock : Prop :=
  ∀ (s : State) (k : Words8) (e : ExpTables), s.key = some k → s.exp = some e →
    exec (.ecbEnc 8) s = .next
      { s with result := encrypt32 ⟨k, e⟩ ⟨s.operands[0], s.operands[1]⟩, err := .ok, pending := none } ∧
    exec (.ecbDec 8) s = .next
      { s with result := decrypt32 ⟨k, e⟩ ⟨s.operands[0], s.operands[1]⟩, err := .ok, pending := none }

/-- R145: on a configured engine with an IV, CTR_INIT encrypts IV in place and writes only IV and ERR; otherwise it reports
the first configuration missing. -/
def Obligations.CtrInitEncryptsTheIv : Prop :=
  encode .ctrInit = 0x00000005 ∧ ∀ s : State,
    (∀ (k : Words8) (e : ExpTables), s.key = some k → s.exp = some e → s.ivLoaded = true →
      exec .ctrInit s = .next { s with iv := encrypt32 ⟨k, e⟩ s.iv, err := .ok, pending := none }) ∧
    (s.key = none → exec .ctrInit s = .next { s with err := .keyNotLoaded, errs := true, pending := none }) ∧
    (s.key ≠ none → s.exp = none →
      exec .ctrInit s = .next { s with err := .sboxNotReady, errs := true, pending := none }) ∧
    (s.key ≠ none → s.exp ≠ none → s.ivLoaded = false →
      exec .ctrInit s = .next { s with err := .ivNotLoaded, errs := true, pending := none })

/-- R146, for either setting of P_CTR_CARRY: CTR advances the counter, encrypts the advanced counter, and XORs the first
LEN bytes; bytes LEN..7 of RESULT are 0. -/
def Obligations.CtrAdvancesThenEncryptsTheCounter : Prop :=
  ∀ (s : State) (k : Words8) (e : ExpTables) (len : Len), s.key = some k → s.exp = some e → s.ivLoaded = true →
    1 ≤ len → len ≤ 8 →
    ∃ t : State, exec (.ctr len) s = .next t ∧ t.iv = ctrStep Config.ctrCarry s.iv ∧
      (∀ i : Nat, i < 8 → t.result.byte i =
        if i < len.toNat then
          (Block.byte ⟨s.operands[0], s.operands[1]⟩ i) ^^^
            (encrypt32 ⟨k, e⟩ (ctrStep Config.ctrCarry s.iv)).byte i
        else 0) ∧
      t = { s with result := t.result, iv := t.iv, err := .ok, pending := none }

/-- R147: CFB_ENC encrypts the state, XORs the zero-padded input, keeps the whole block as the new state and truncates the
output. -/
def Obligations.CfbEncKeepsTheWholeBlock : Prop :=
  ∀ (s : State) (k : Words8) (e : ExpTables) (len : Len), s.key = some k → s.exp = some e → s.ivLoaded = true →
    1 ≤ len → len ≤ 8 →
    ∃ t : State, exec (.cfbEnc len) s = .next t ∧
      (∀ i : Nat, i < 8 → t.iv.byte i =
        (if i < len.toNat then Block.byte ⟨s.operands[0], s.operands[1]⟩ i else 0) ^^^
          (encrypt32 ⟨k, e⟩ s.iv).byte i) ∧
      (∀ i : Nat, i < 8 → t.result.byte i = if i < len.toNat then t.iv.byte i else 0) ∧
      t = { s with result := t.result, iv := t.iv, err := .ok, pending := none }

/-- R148: CFB_DEC encrypts the state, keeps the zero-padded input as the new state and truncates the output. -/
def Obligations.CfbDecKeepsThePaddedInput : Prop :=
  ∀ (s : State) (k : Words8) (e : ExpTables) (len : Len), s.key = some k → s.exp = some e → s.ivLoaded = true →
    1 ≤ len → len ≤ 8 →
    ∃ t : State, exec (.cfbDec len) s = .next t ∧
      (∀ i : Nat, i < 8 → t.iv.byte i =
        if i < len.toNat then Block.byte ⟨s.operands[0], s.operands[1]⟩ i else 0) ∧
      (∀ i : Nat, i < 8 → t.result.byte i =
        if i < len.toNat then t.iv.byte i ^^^ (encrypt32 ⟨k, e⟩ s.iv).byte i else 0) ∧
      t = { s with result := t.result, iv := t.iv, err := .ok, pending := none }

/-- R149 "Zero length", R191: once every check passes, a block command with LEN = 0 changes nothing but ERR. -/
def Obligations.ZeroLengthChangesOnlyErr : Prop :=
  ∀ (s : State) (i : Instr), s.configured = true →
    i ∈ [Instr.ecbEnc 0, .ecbDec 0, .macUpdate 0, .ctr 0, .cfbEnc 0, .cfbDec 0] → (i.usesIv = true → s.ivLoaded = true) →
    exec i s = .next { s with err := .ok, pending := none }

/-- R143, R144, R111: decrypting the RESULT of ECB_ENC, under the same key and tables in any later state, gives the
plaintext block. -/
def Obligations.EcbDecUndoesEcbEnc : Prop :=
  ∀ s t u : State, exec (.ecbEnc 8) s = .next t → t.err = .ok → u.key = s.key → u.exp = s.exp →
    blockOf u.operands = t.result →
    ∃ v, exec (.ecbDec 8) u = .next v ∧ v.err = .ok ∧ v.result = blockOf s.operands

/-- R149 CTR, for either setting of P_CTR_CARRY, LENs 1..8 (LEN = 0 is ZeroLengthChangesOnlyErr): from the same counter and configuration, the same LENs on the first run's
RESULTs give the first run's inputs, truncated to their LENs, and the same last counter. -/
def Obligations.CtrStreamIsItsOwnInverse : Prop :=
  ∀ (s u : State) (msg : List (Len × Block)), s.configured = true → s.ivLoaded = true →
    u.key = s.key → u.exp = s.exp → u.iv = s.iv → u.ivLoaded = true → (∀ m ∈ msg, 1 ≤ m.1 ∧ m.1 ≤ 8) →
    ∃ out t v, stream .ctr msg s = some (out, t) ∧
      stream .ctr ((msg.map Prod.fst).zip out) u = some (msg.map fun m => trunc m.2 m.1.toNat, v) ∧ v.iv = t.iv

/-- R149 CFB: from the same IV and configuration, CFB_DEC of the CFB_ENC RESULTs gives the plaintext back, truncated to its
LENs, when every LEN but possibly the last is 8. -/
def Obligations.CfbDecStreamUndoesCfbEncStream : Prop :=
  ∀ (s u : State) (blocks : List Block) (len : Len) (final : Block), s.configured = true → s.ivLoaded = true →
    u.key = s.key → u.exp = s.exp → u.iv = s.iv → u.ivLoaded = true → 1 ≤ len → len ≤ 8 →
    ∃ out t v, stream .cfbEnc ((blocks.map fun x => (8, x)) ++ [(len, final)]) s = some (out, t) ∧
      stream .cfbDec (((blocks.map fun _ => (8 : Len)) ++ [len]).zip out) u =
        some (blocks ++ [trunc final len.toNat], v)

/-- R150: after CFB_ENC of a partial block and CFB_DEC of its RESULT, the decryptor's IV is that RESULT: the encryptor's IV
with bytes LEN..7 zero. -/
def Obligations.PartialCfbBlockIvs : Prop :=
  ∀ (s t u v : State) (len : Len), exec (.cfbEnc len) s = .next t → t.err = .ok → 1 ≤ len → len ≤ 7 →
    blockOf u.operands = t.result → exec (.cfbDec len) u = .next v → v.err = .ok →
    v.iv = t.result ∧ v.iv = trunc t.iv len.toNat

/-! ### MAC commands (43_mac.md) -/

/-- R171: MAC_UPDATE of a whole block compresses the accumulator XOR the block, 16 rounds, halves not exchanged. -/
def Obligations.MacUpdateCompressesTheBlock : Prop :=
  ∀ (s : State) (k : Words8) (e : ExpTables), s.key = some k → s.exp = some e →
    exec (.macUpdate 8) s = .next
      { s with mac := compress16 ⟨k, e⟩ ⟨s.mac.w0 ^^^ s.operands[0], s.mac.w1 ^^^ s.operands[1]⟩,
               err := .ok, pending := none }

/-- R170, R172: MAC_RESET clears the accumulator and MAC_LOAD loads it, in every state; with (0, 0) they are the same. -/
def Obligations.MacResetAndLoadWriteTheAccumulator : Prop :=
  encode .macReset = 0x00000010 ∧ encode .macLoad = 0x00000012 ∧ ∀ s : State,
    exec .macReset s = .next { s with mac := ⟨0, 0⟩, err := .ok, pending := none } ∧
    exec .macLoad s = .next { s with mac := ⟨s.operands[0], s.operands[1]⟩, err := .ok, pending := none } ∧
    (s.operands[0] = 0 → s.operands[1] = 0 → exec .macLoad s = exec .macReset s)

/-- R174: the accumulator after MAC_UPDATEs of A and then of B is that after MAC_UPDATEs of A ++ B, and depends only on KEY,
EXP, the accumulator and the blocks. -/
def Obligations.MacDependsOnlyOnKeyTablesAndBlocks : Prop :=
  ∀ (s u : State) (a b : List Block), s.configured = true → u.key = s.key → u.exp = s.exp → u.mac = s.mac →
    ∃ outA t outB v outAB w,
      stream .macUpdate (a.map fun x => (8, x)) s = some (outA, t) ∧
      stream .macUpdate (b.map fun x => (8, x)) t = some (outB, v) ∧
      stream .macUpdate ((a ++ b).map fun x => (8, x)) u = some (outAB, w) ∧ w.mac = v.mac

/-- R33, R34: an IV or a MAC accumulator saved by two reads while BUSY = 0 comes back, unencrypted, by LOAD_IV or MAC_LOAD of
the words read, in any later state. -/
def Obligations.SavedContextIsRestored : Prop :=
  ∀ s u : State, s.busy = false →
    (u.operands[0] = (s.readReg .iv0).1 → u.operands[1] = (s.readReg .iv1).1 →
      ∃ t, exec (.loadIv 8) u = .next t ∧ t.err = .ok ∧ t.iv = s.iv ∧ t.ivLoaded = true) ∧
    (u.operands[0] = (s.readReg .mac0).1 → u.operands[1] = (s.readReg .mac1).1 →
      ∃ t, exec .macLoad u = .next t ∧ t.err = .ok ∧ t.mac = s.mac)

/-! ### Errors (60_exceptions.md) -/

/-- R191: a command reports exactly the first error that applies, or OK if none does, and ERRS is set by an error alone; once
all checks pass, a block command with LEN = 0 is a no-op. -/
def Obligations.FirstApplicableErrorIsReported : Prop :=
  ∀ (i : Instr) (s : State), ∃ t, exec i s = .next t ∧ t.err.IsReported i s ∧
    t.errs = (s.errs || decide (t.err ≠ .ok)) ∧
    (i ∈ [Instr.ecbEnc 0, .ecbDec 0, .macUpdate 0, .ctr 0, .cfbEnc 0, .cfbDec 0] → t.err = .ok →
      t = { s with err := .ok, pending := none })

/-- R192: an error, of a command or of a word that is no command, sets ERR and ERRS, returns BUSY to 0, and every other piece
of state keeps its pre-command value. -/
def Obligations.ErrorsArePrecise : Prop :=
  (∀ (i : Instr) (s t : State), exec i s = .next t → t.err ≠ .ok →
    t = { s with err := t.err, errs := true, pending := none }) ∧
  ∀ s t : State, s.busy = true → engineTurn s = .next t → t.err ≠ .ok →
    t = { s with err := t.err, errs := true, pending := none }

/-- R187, R188, R189: a cipher command with no operand error reports the missing configuration. -/
def Obligations.UnconfiguredCipherCommandsReport : Prop :=
  ∀ (i : Instr) (s : State), i.wf = true → i.usesCipher = true → (i.needsWholeBlock = true → i.len = 0 ∨ i.len = 8) →
    (s.key = none → exec i s = .next { s with err := .keyNotLoaded, errs := true, pending := none }) ∧
    (s.key ≠ none → s.exp = none →
      exec i s = .next { s with err := .sboxNotReady, errs := true, pending := none }) ∧
    (s.key ≠ none → s.exp ≠ none → s.ivLoaded = false → i.usesIv = true →
      exec i s = .next { s with err := .ivNotLoaded, errs := true, pending := none })

/-! ### Who writes what (10_state.md) -/

/-- R22, R23, R24, R25, R26, R29: each register is changed only by the commands named for it, and a command changes none of
DATA, OVR and the reset line. -/
def Obligations.OnlyTheNamedCommandsWriteEachRegister : Prop :=
  ∀ (i : Instr) (s t : State), exec i s = .next t →
    (t.key ≠ s.key → i = .loadKey 32 ∧ s.key = none ∧ t.key = some s.operands) ∧
    (t.sbox ≠ s.sbox → ∃ row, i = .loadSboxRow row 16 ∧ ∀ r : Fin 8, r.val ≠ row.toNat → t.sbox[r] = s.sbox[r]) ∧
    (t.exp ≠ s.exp → i = .expand) ∧
    (t.expStale ≠ s.expStale → i = .expand ∨ ∃ row, i = .loadSboxRow row 16) ∧
    (t.ivLoaded ≠ s.ivLoaded → i = .loadIv 8) ∧
    (t.iv ≠ s.iv → i = .loadIv 8 ∨ i = .ctrInit ∨
      ∃ len, len ≠ 0 ∧ (i = .ctr len ∨ i = .cfbEnc len ∨ i = .cfbDec len)) ∧
    (t.mac ≠ s.mac → i = .macReset ∨ i = .macUpdate 8 ∨ i = .macLoad) ∧
    (t.result ≠ s.result → t.err = .ok ∧ ∃ len, len ≠ 0 ∧
      (i = .ecbEnc len ∨ i = .ecbDec len ∨ i = .ctr len ∨ i = .cfbEnc len ∨ i = .cfbDec len)) ∧
    t.data = s.data ∧ t.ovr = s.ovr ∧ t.resetLine = s.resetLine

/-- R22, R27, R123: from every state, a step that is not an assertion of reset keeps a loaded key as it is, clears none of
KEY_LOADED, ROW_LOADED, EXP_VALID and IV_LOADED, and clears EXP_STALE only if it is the completion, without error, of an EXPAND
in flight. That R27's "No command clears a flag" does not speak of EXP_STALE is log 17 (DEDUCED). -/
def Obligations.OnlyResetClearsTheConfiguration : Prop :=
  ∀ s t : State, step s = .next t → s.prog ≠ .assertReset :: t.prog →
    (∀ k, s.key = some k → t.key = some k) ∧ (∀ r : Fin 8, s.rowLoaded r = true → t.rowLoaded r = true) ∧
    (s.expValid = true → t.expValid = true) ∧ (s.ivLoaded = true → t.ivLoaded = true) ∧
    (s.expStale = true → t.expStale = false →
      (∃ p, s.pending = some p ∧ decode p.word = .ok .expand) ∧ t.pending = none ∧ t.err = .ok ∧ t.expValid = true)

/-- R32: ERR changes only at a command's completion (or at reset), and only takes the values 0..9. -/
def Obligations.ErrIsWrittenAtCompletionOnly : Prop :=
  ∀ s t : State, step s = .next t →
    (t.err ≠ s.err → (s.busy = true ∧ t.busy = false) ∨ s.prog = .assertReset :: t.prog) ∧ t.err.code ≤ 9

/-- R35, R36: ERRS and OVR, once set, are cleared only by a host write to STATUS with bit 12 or bit 13 set, or by reset;
an error sets ERRS, and a CMD write while BUSY = 1 sets OVR. -/
def Obligations.StickyFlagsAreClearedByTheHostOnly : Prop :=
  (∀ s t : State, step s = .next t → s.errs = true → t.errs = false →
    (∃ w, t.log = .wrote .status w :: s.log ∧ w.getLsbD 12 = true) ∨ s.prog = .assertReset :: t.prog) ∧
  (∀ s t : State, step s = .next t → s.ovr = true → t.ovr = false →
    (∃ w, t.log = .wrote .status w :: s.log ∧ w.getLsbD 13 = true) ∨ s.prog = .assertReset :: t.prog) ∧
  (∀ s t : State, step s = .next t → s.errs = false → (t.errs = true ↔ t.err ≠ .ok ∧ s.busy = true ∧ t.busy = false)) ∧
  (∀ s t : State, step s = .next t → s.ovr = false →
    (t.ovr = true ↔ s.busy = true ∧ ∃ w, t.log = .wrote .cmd w :: s.log))

/-- The invariant holds at reset. -/
def Obligations.InvariantHoldsAtReset : Prop := State.reset.Inv

/-- R23, R24, R25, R27, R101, R200: every step, from every state that meets the invariant, keeps it. -/
def Obligations.EveryStepKeepsTheInvariant : Prop :=
  ∀ s t : State, s.Inv → step s = .next t → t.Inv

/-! ### The register window (20_memory.md) -/

/-- R31, R37: the word a read of STATUS returns, field by field. -/
def Obligations.StatusWordFields : Prop :=
  ∀ s : State,
    s.statusWord.getLsbD 0 = s.busy ∧ s.statusWord.extractLsb' 1 3 = 0 ∧ s.statusWord.extractLsb' 4 4 = s.err.code ∧
    s.statusWord.getLsbD 8 = s.keyLoaded ∧ s.statusWord.getLsbD 9 = s.expValid ∧ s.statusWord.getLsbD 10 = s.expStale ∧
    s.statusWord.getLsbD 11 = s.ivLoaded ∧ s.statusWord.getLsbD 12 = s.errs ∧ s.statusWord.getLsbD 13 = s.ovr ∧
    s.statusWord.extractLsb' 14 2 = 0 ∧ (∀ r : Fin 8, s.statusWord.getLsbD (16 + r.val) = s.rowLoaded r) ∧
    s.statusWord.extractLsb' 24 8 = 0

/-- R58: a write to STATUS clears ERRS and OVR where bits 12 and 13 are 1 and changes no other bit and no other state; with
a completion that sets ERRS, or a dropped CMD write, ordered at the same time, the set wins (log 11). -/
def Obligations.StatusWriteClearsTheStickyBits : Prop :=
  ∀ (w : Word) (s : State),
    (s.writeReg .status w).statusWord = s.statusWord &&& ~~~ (w &&& 0x00003000) ∧
    s.writeReg .status w = { s with errs := (s.writeReg .status w).errs, ovr := (s.writeReg .status w).ovr } ∧
    (∀ i t, exec i (s.writeReg .status w) = .next t → t.err ≠ .ok → t.errs = true) ∧
    (∀ v, s.busy = true → ((s.writeReg .status w).writeReg .cmd v).ovr = true)

/-- R51, R53, with log 8 (DESIGN CHOICE: an access of several beats is refused wherever it lies): an access is performed exactly if it is a single 32-bit access at a multiple of 4 in the window, and it reaches
the register whose offset it names (the offsets are distinct); any other is refused. -/
def Obligations.OnlyLegalAccessesArePerformed : Prop :=
  (∀ r q : Reg, r.offset = q.offset → r = q) ∧
  ∀ (a : Access) (s : State), s.resetLine = false →
    (a.Legal → ∃ r t, a.off = (r.offset : Int) ∧ a.target = .ok r ∧ busAccess a s = .next t) ∧
    (¬ a.Legal → ∃ why, busAccess a s = .refused (.refusedAccess why Config.busErr))

/-- R54, R51: a read while BUSY = 0 returns the register and changes nothing but the host's own log. -/
def Obligations.IdleReadReturnsTheRegister : Prop :=
  ∀ (s : State) (r : Reg), s.pending = none → s.resetLine = false →
    ∃ v, busAccess ⟨(r.offset : Int), 32, 1, .read⟩ s = .next { s with log := .read r v :: s.log } ∧
      v = match r with
        | .cmd => 0
        | .status => s.statusWord
        | .result0 => s.result.w0
        | .result1 => s.result.w1
        | .iv0 => s.iv.w0
        | .iv1 => s.iv.w1
        | .mac0 => s.mac.w0
        | .mac1 => s.mac.w1
        | .data n => s.data[n]

/-- R60, R54: a read while BUSY = 1 changes no state of the spec's; STATUS and DATA read as they are with BUSY = 1, and
RESULT, IV and MAC give the next free word. That this word is `Config.freeWord` of the counter `draws`, which then advances, is
the model's choice (log 6, DESIGN CHOICE); that each such read draws afresh, against R54's idempotent reads, is log 7 (DEDUCED). -/
def Obligations.BusyReadIsFree : Prop :=
  ∀ (s : State) (r : Reg), s.busy = true → s.resetLine = false →
    ∃ v d, busAccess ⟨(r.offset : Int), 32, 1, .read⟩ s = .next { s with draws := d, log := .read r v :: s.log } ∧
      ((r = .cmd ∧ v = 0 ∧ d = s.draws) ∨ (r = .status ∧ v = s.statusWord ∧ v.getLsbD 0 = true ∧ d = s.draws) ∨
        (∃ n, r = .data n ∧ v = s.data[n] ∧ d = s.draws) ∨
        (r ∈ [Reg.result0, .result1, .iv0, .iv1, .mac0, .mac1] ∧ v = Config.freeWord s.draws ∧ d = s.draws + 1))

/-- R55: a read of CMD returns 0, a write to a read-only register changes nothing, and a write to DATA[n] sets DATA[n] and
nothing else, busy or not; beside them, the host's own log gets the access (log 15). -/
def Obligations.WritesToReadOnlyAndData : Prop :=
  ∀ (s : State) (v : Word), s.resetLine = false →
    busAccess ⟨0x00, 32, 1, .read⟩ s = .next { s with log := .read .cmd 0 :: s.log } ∧
    (∀ r ∈ [Reg.result0, .result1, .iv0, .iv1, .mac0, .mac1],
      busAccess ⟨(r.offset : Int), 32, 1, .write v⟩ s = .next { s with log := .wrote r v :: s.log }) ∧
    ∀ n : Fin 8, busAccess ⟨((Reg.data n).offset : Int), 32, 1, .write v⟩ s =
      .next { s with data := s.data.set n v, log := .wrote (.data n) v :: s.log }

/-- R56: a CMD write while BUSY = 0 latches the word, whatever it is, and a snapshot of DATA, and an illegal word then completes
with ILLEGAL_COMMAND; while BUSY = 1 the write sets OVR and changes nothing else. The host's own log gets the write (log 15). -/
def Obligations.CmdWriteIsAcceptedOrDropped : Prop :=
  ∀ (s : State) (w : Word), s.resetLine = false →
    (s.busy = false → busAccess ⟨0x00, 32, 1, .write w⟩ s =
      .next { s with pending := some ⟨w, s.data⟩, log := .wrote .cmd w :: s.log }) ∧
    ((∃ e, decode w = .error e) → engineTurn { s with pending := some ⟨w, s.data⟩ } =
      .next { s with err := .illegalCommand, errs := true, pending := none }) ∧
    (s.busy = true → busAccess ⟨0x00, 32, 1, .write w⟩ s = .next { s with ovr := true, log := .wrote .cmd w :: s.log })

/-- R59, R66, R79: DATA as it stands at completion does not reach a command in flight: it reads the snapshot, and leaves
DATA as it is. -/
def Obligations.CommandReadsTheSnapshotOnly : Prop :=
  ∀ (i : Instr) (s t : State) (p : Latched) (d : Words8), s.pending = some p → exec i s = .next t →
    exec i { s with data := d } = .next { t with data := d }

/-- R57, R113: a host access never changes what a command in flight reads or has written. -/
def Obligations.HostAccessesLeaveTheEngineAlone : Prop :=
  ∀ (a : Access) (s t : State), busAccess a s = .next t →
    t.key = s.key ∧ t.sbox = s.sbox ∧ t.exp = s.exp ∧ t.expStale = s.expStale ∧ t.iv = s.iv ∧
    t.ivLoaded = s.ivLoaded ∧ t.mac = s.mac ∧ t.result = s.result ∧ t.err = s.err ∧ t.resetLine = s.resetLine ∧
    (s.busy = true → t.pending = s.pending)

/-- R66, R122, R203: rows loaded since the last EXPAND, and EXP_STALE, do not reach a command other than EXPAND and
LOAD_SBOX_ROW. -/
def Obligations.StaleTablesAreUsedAsTheyAre : Prop :=
  ∀ (i : Instr) (s t : State) (m : Vector (Option SboxRow) 8) (b : Bool), exec i s = .next t → i ≠ .expand →
    (∀ row len, i ≠ .loadSboxRow row len) →
    exec i { s with sbox := m, expStale := b } = .next { t with sbox := m, expStale := b }

/-- R22, R23, R24, R196: no access tells the host KEY, SBOX or EXP: with other contents and the same flags, every access has
the same outcome, and leaves the same log. -/
def Obligations.KeyAndTablesCannotBeReadBack : Prop :=
  ∀ (a : Access) (s u : State), u = { s with key := u.key, sbox := u.sbox, exp := u.exp } →
    u.keyLoaded = s.keyLoaded → u.expValid = s.expValid → (∀ r, u.rowLoaded r = s.rowLoaded r) →
    (∀ t, busAccess a s = .next t → ∃ v, busAccess a u = .next v ∧ v.log = t.log) ∧
    (∀ why, busAccess a s = .refused why → busAccess a u = .refused why)

/-- R200, R41: asserting reset abandons a command in flight, sets every register to its reset value, and refuses accesses
until it is released. -/
def Obligations.ResetAbandonsAndClears : Prop :=
  ∀ (s : State) (rest : List HostOp), s.prog = .assertReset :: rest →
    ∃ t, hostTurn s = .next t ∧
      t = { State.reset with resetLine := true, prog := rest, sched := s.sched, draws := s.draws, log := s.log } ∧
      ∀ a, busAccess a t = .refused (.refusedAccess .inReset Config.busErr)

/-- R41: the values of the registers at reset, with no command in flight. -/
def Obligations.ResetValues : Prop :=
  State.reset.statusWord = 0 ∧ (∀ n : Fin 8, State.reset.data[n] = 0) ∧ State.reset.result = ⟨0, 0⟩ ∧
  State.reset.iv = ⟨0, 0⟩ ∧ State.reset.mac = ⟨0, 0⟩ ∧ State.reset.pending = none

/-! ### The datapath (40_datapath.md, 42_modes.md) -/

/-- R101: a table expanded from eight permutations is a bijection on 0..255. -/
def Obligations.ExpandedTablesAreBijections : Prop :=
  ∀ m : Vector SboxRow 8, (∀ r : Fin 8, m[r].IsPerm) →
    ∀ t : Fin 4, Function.Bijective fun i : Fin 256 => (expand m)[t][i]

/-- R102, R103, R104: byte n of the sum goes through table n, F depends on x and k only through x + k modulo 2^32, and the
rotator moves bit i to bit (i + 11) mod 32. -/
def Obligations.RoundFunctionIsAddSubstituteRotate : Prop :=
  ∀ e : ExpTables,
    (∀ (w : Word) (n : Fin 4), byteOf (subst e w) n.val = e[n][(byteOf w n.val).toFin]) ∧
    (∀ (x k : Word) (i : Nat), i < 32 →
      (roundF e x k).getLsbD ((i + 11) % 32) = (subst e (BitVec.ofNat 32 (x.toNat + k.toNat))).getLsbD i)

/-- R111: decryption and encryption undo each other, for every key and all tables; with eight equal key words they are the
same function. -/
def Obligations.DecryptAndEncryptAreInverse : Prop :=
  (∀ (c : Cipher) (x : Block), decrypt32 c (encrypt32 c x) = x ∧ encrypt32 c (decrypt32 c x) = x) ∧
  ∀ (c : Cipher) (k : Word), (∀ j : Fin 8, c.key[j] = k) → ∀ x, encrypt32 c x = decrypt32 c x

/-- R109, R112: run round by round on the key indices of R109, the Feistel processor computes Encrypt32, Decrypt32 and
Compress16. -/
def Obligations.RoundScheduleComputesTheCipher : Prop :=
  ∀ (c : Cipher) (x : Block),
    (FeistelUnit.run c Schedule.encrypt.rounds (.start .encrypt x)).output = encrypt32 c x ∧
    (FeistelUnit.run c Schedule.decrypt.rounds (.start .decrypt x)).output = decrypt32 c x ∧
    (FeistelUnit.run c Schedule.compress.rounds (.start .compress x)).output = compress16 c x

/-- R141: Trunc keeps block bytes 0..len-1 and zeroes bytes len..7. -/
def Obligations.TruncKeepsTheFirstBytes : Prop :=
  ∀ (x : Block) (len i : Nat), len ≤ 8 → i < 8 → (trunc x len).byte i = if i < len then x.byte i else 0

/-- R142: the low word is a plain sum; under END_AROUND the high word takes the extra +1 exactly when its sum overflows 32
bits, and under NONE never. -/
def Obligations.CtrStepCarriesOnOverflow : Prop :=
  ∀ c : Block,
    (∀ carry, (ctrStep carry c).w0 = c.w0 + 0x01010101) ∧ (ctrStep .plain c).w1 = c.w1 + 0x01010104 ∧
    (ctrStep .endAround c).w1.toNat =
      if 2 ^ 32 ≤ c.w1.toNat + 0x01010104 then c.w1.toNat + 0x01010104 - (2 ^ 32 - 1) else c.w1.toNat + 0x01010104

/-- R11, R52: packing and the byte lanes are inverse to each other, lane n being bits [8n+7:8n]; a buffer of whole words packs
to those words, in order. -/
def Obligations.PackingIsLittleEndian : Prop :=
  (∀ b0 b1 b2 b3 : Byte, bytesOf (packLe b0 b1 b2 b3) = [b0, b1, b2, b3]) ∧
  (∀ w : Word, packLe (byteOf w 0) (byteOf w 1) (byteOf w 2) (byteOf w 3) = w) ∧
  ∀ ws : List Word, packBytes (ws.flatMap bytesOf) = ws
end

