-- ==== Sys2Proof/Laws/PerInstr.lean ====
section
/-! SUPPORT. Facts about each command as syntax, one lemma per constructor of Instr. -/

/-- The opcode map reads a well-formed command back from its own fields (R76, R80). -/
def Sys2Proof.Laws.DecodeFields.Statement (i : Sys2Proof.Instr) : Prop :=
  i.wf = true → Sys2Proof.decodeFields i.opc i.len i.row = .ok i

namespace Sys2Proof.Laws.DecodeFields

open Sys2Proof

theorem decodeBlock_ok (mk : Len → Instr) (len : Len) (h : blockLenOk len = true) :
    decodeBlock mk len 0 = .ok (mk len) := by
  simp_all [decodeBlock, blockLenOk]

theorem nop : Statement .nop := fun _ => rfl

theorem loadKey (len : Len) : Statement (.loadKey len) := fun _ => rfl

theorem loadSboxRow (row : RowIndex) (len : Len) : Statement (.loadSboxRow row len) := fun _ => rfl

theorem expand : Statement .expand := fun _ => rfl

theorem loadIv (len : Len) : Statement (.loadIv len) := fun _ => rfl

theorem ctrInit : Statement .ctrInit := fun _ => rfl

theorem ecbEnc (len : Len) : Statement (.ecbEnc len) := fun h => decodeBlock_ok _ len h

theorem ecbDec (len : Len) : Statement (.ecbDec len) := fun h => decodeBlock_ok _ len h

theorem ctr (len : Len) : Statement (.ctr len) := fun h => decodeBlock_ok _ len h

theorem cfbEnc (len : Len) : Statement (.cfbEnc len) := fun h => decodeBlock_ok _ len h

theorem cfbDec (len : Len) : Statement (.cfbDec len) := fun h => decodeBlock_ok _ len h

theorem macReset : Statement .macReset := fun _ => rfl

theorem macUpdate (len : Len) : Statement (.macUpdate len) := fun h => decodeBlock_ok _ len h

theorem macLoad : Statement .macLoad := fun _ => rfl

end Sys2Proof.Laws.DecodeFields
end

