-- ==== Sys2Proof/Laws/Decode.lean ====
section
/-! SUPPORT. What the encoder's words hold and what the opcode map accepts, once each (spec 30_encoding.md R70, R76). -/

namespace Sys2Proof

/-- The fields of an encoded command are the command's, and its reserved bits are 0 (R70, R74). -/
theorem encode_fields (i : Instr) :
    opcField (encode i) = i.opc ∧ lenField (encode i) = i.len ∧ rowField (encode i) = i.row ∧
      rsv0Field (encode i) = 0 ∧ rsv1Field (encode i) = 0 := by
  unfold encode opcField lenField rowField rsv0Field rsv1Field
  generalize i.opc = o
  generalize i.len = l
  generalize i.row = r
  refine ⟨?_, ?_, ?_, ?_, ?_⟩ <;>
    (refine BitVec.eq_of_getLsbD_eq fun j hj => ?_
     simp
     try interval_cases j <;> simp)

/-- A word with its reserved bits 0 is the join of its fields (R70). -/
theorem join_fields (w : Word) (h0 : rsv0Field w = 0) (h1 : rsv1Field w = 0) :
    ((rowField w).setWidth 32 <<< 16) ||| ((lenField w).setWidth 32 <<< 8) ||| (opcField w).setWidth 32 = w := by
  unfold rsv0Field at h0
  unfold rsv1Field at h1
  unfold rowField lenField opcField
  refine BitVec.eq_of_getLsbD_eq fun j hj => ?_
  have e0 : ∀ k, (w.extractLsb' 14 2).getLsbD k = false := fun k => by rw [h0]; simp
  have e1 : ∀ k, (w.extractLsb' 19 13).getLsbD k = false := fun k => by rw [h1]; simp
  simp only [BitVec.getLsbD_extractLsb'] at e0 e1
  have a := e0 (j - 14)
  have b := e1 (j - 19)
  simp
  interval_cases j <;> simp_all

theorem ite_eq_ok (c : Prop) [Decidable c] (x y : Except DecodeError Instr) (i : Instr)
    (h : (if c then x else y) = .ok i) : (c ∧ x = .ok i) ∨ (¬ c ∧ y = .ok i) := by
  split at h
  · exact .inl ⟨‹_›, h⟩
  · exact .inr ⟨‹_›, h⟩

/-- What the opcode map accepts: the fields are those of the command it gives, which is well-formed (R75, R76, R78). -/
theorem decodeFields_ok (o : BitVec 8) (l : Len) (r : RowIndex) (i : Instr) (h : decodeFields o l r = .ok i) :
    i.opc = o ∧ i.len = l ∧ i.row = r ∧ i.wf = true := by
  unfold decodeFields decodeBare decodeLen decodeBlock at h
  repeat' (replace h := ite_eq_ok _ _ _ _ h; rcases h with ⟨_, h⟩ | ⟨_, h⟩)
  all_goals first
    | (cases h; done)
    | (injection h with h; subst h; simp_all [Instr.opc, Instr.len, Instr.row, Instr.wf, blockLenOk])

end Sys2Proof
end

