-- ==== Sys2Proof/Laws/State.lean ====
section
/-! SUPPORT. What each named update of the state does to each field, one lemma a field, and what the accessors read. -/

namespace Sys2Proof.Machine

/-! ### writeStatus (R58) -/

@[simp] theorem State.writeStatus_key (w : Word) (s : State) : (s.writeStatus w).key = s.key := rfl
@[simp] theorem State.writeStatus_sbox (w : Word) (s : State) : (s.writeStatus w).sbox = s.sbox := rfl
@[simp] theorem State.writeStatus_exp (w : Word) (s : State) : (s.writeStatus w).exp = s.exp := rfl
@[simp] theorem State.writeStatus_expStale (w : Word) (s : State) : (s.writeStatus w).expStale = s.expStale := rfl
@[simp] theorem State.writeStatus_iv (w : Word) (s : State) : (s.writeStatus w).iv = s.iv := rfl
@[simp] theorem State.writeStatus_ivLoaded (w : Word) (s : State) : (s.writeStatus w).ivLoaded = s.ivLoaded := rfl
@[simp] theorem State.writeStatus_mac (w : Word) (s : State) : (s.writeStatus w).mac = s.mac := rfl
@[simp] theorem State.writeStatus_data (w : Word) (s : State) : (s.writeStatus w).data = s.data := rfl
@[simp] theorem State.writeStatus_result (w : Word) (s : State) : (s.writeStatus w).result = s.result := rfl
@[simp] theorem State.writeStatus_err (w : Word) (s : State) : (s.writeStatus w).err = s.err := rfl
@[simp] theorem State.writeStatus_pending (w : Word) (s : State) : (s.writeStatus w).pending = s.pending := rfl
@[simp] theorem State.writeStatus_resetLine (w : Word) (s : State) : (s.writeStatus w).resetLine = s.resetLine := rfl
@[simp] theorem State.writeStatus_prog (w : Word) (s : State) : (s.writeStatus w).prog = s.prog := rfl
@[simp] theorem State.writeStatus_sched (w : Word) (s : State) : (s.writeStatus w).sched = s.sched := rfl
@[simp] theorem State.writeStatus_draws (w : Word) (s : State) : (s.writeStatus w).draws = s.draws := rfl
@[simp] theorem State.writeStatus_log (w : Word) (s : State) : (s.writeStatus w).log = s.log := rfl
@[simp] theorem State.writeStatus_errs (w : Word) (s : State) : (s.writeStatus w).errs = (s.errs && !w.getLsbD 12) := rfl
@[simp] theorem State.writeStatus_ovr (w : Word) (s : State) : (s.writeStatus w).ovr = (s.ovr && !w.getLsbD 13) := rfl

/-! ### writeCmd (R56) -/

theorem State.writeCmd_idle (w : Word) (s : State) (h : s.pending = none) :
    s.writeCmd w = { s with pending := some ⟨w, s.data⟩ } := by simp [State.writeCmd, h]

theorem State.writeCmd_busy (w : Word) (s : State) (p : Latched) (h : s.pending = some p) :
    s.writeCmd w = { s with ovr := true } := by simp [State.writeCmd, h]

@[simp] theorem State.writeCmd_key (w : Word) (s : State) : (s.writeCmd w).key = s.key := by
  unfold State.writeCmd; split <;> rfl
@[simp] theorem State.writeCmd_sbox (w : Word) (s : State) : (s.writeCmd w).sbox = s.sbox := by
  unfold State.writeCmd; split <;> rfl
@[simp] theorem State.writeCmd_exp (w : Word) (s : State) : (s.writeCmd w).exp = s.exp := by
  unfold State.writeCmd; split <;> rfl
@[simp] theorem State.writeCmd_expStale (w : Word) (s : State) : (s.writeCmd w).expStale = s.expStale := by
  unfold State.writeCmd; split <;> rfl
@[simp] theorem State.writeCmd_iv (w : Word) (s : State) : (s.writeCmd w).iv = s.iv := by
  unfold State.writeCmd; split <;> rfl
@[simp] theorem State.writeCmd_ivLoaded (w : Word) (s : State) : (s.writeCmd w).ivLoaded = s.ivLoaded := by
  unfold State.writeCmd; split <;> rfl
@[simp] theorem State.writeCmd_mac (w : Word) (s : State) : (s.writeCmd w).mac = s.mac := by
  unfold State.writeCmd; split <;> rfl
@[simp] theorem State.writeCmd_data (w : Word) (s : State) : (s.writeCmd w).data = s.data := by
  unfold State.writeCmd; split <;> rfl
@[simp] theorem State.writeCmd_result (w : Word) (s : State) : (s.writeCmd w).result = s.result := by
  unfold State.writeCmd; split <;> rfl
@[simp] theorem State.writeCmd_err (w : Word) (s : State) : (s.writeCmd w).err = s.err := by
  unfold State.writeCmd; split <;> rfl
@[simp] theorem State.writeCmd_errs (w : Word) (s : State) : (s.writeCmd w).errs = s.errs := by
  unfold State.writeCmd; split <;> rfl
@[simp] theorem State.writeCmd_resetLine (w : Word) (s : State) : (s.writeCmd w).resetLine = s.resetLine := by
  unfold State.writeCmd; split <;> rfl
@[simp] theorem State.writeCmd_prog (w : Word) (s : State) : (s.writeCmd w).prog = s.prog := by
  unfold State.writeCmd; split <;> rfl
@[simp] theorem State.writeCmd_sched (w : Word) (s : State) : (s.writeCmd w).sched = s.sched := by
  unfold State.writeCmd; split <;> rfl
@[simp] theorem State.writeCmd_draws (w : Word) (s : State) : (s.writeCmd w).draws = s.draws := by
  unfold State.writeCmd; split <;> rfl
@[simp] theorem State.writeCmd_log (w : Word) (s : State) : (s.writeCmd w).log = s.log := by
  unfold State.writeCmd; split <;> rfl

/-! ### writeReg (R51, R55) -/

@[simp] theorem State.writeReg_key (r : Reg) (v : Word) (s : State) : (s.writeReg r v).key = s.key := by
  cases r <;> simp [State.writeReg]
@[simp] theorem State.writeReg_sbox (r : Reg) (v : Word) (s : State) : (s.writeReg r v).sbox = s.sbox := by
  cases r <;> simp [State.writeReg]
@[simp] theorem State.writeReg_exp (r : Reg) (v : Word) (s : State) : (s.writeReg r v).exp = s.exp := by
  cases r <;> simp [State.writeReg]
@[simp] theorem State.writeReg_expStale (r : Reg) (v : Word) (s : State) : (s.writeReg r v).expStale = s.expStale := by
  cases r <;> simp [State.writeReg]
@[simp] theorem State.writeReg_iv (r : Reg) (v : Word) (s : State) : (s.writeReg r v).iv = s.iv := by
  cases r <;> simp [State.writeReg]
@[simp] theorem State.writeReg_ivLoaded (r : Reg) (v : Word) (s : State) : (s.writeReg r v).ivLoaded = s.ivLoaded := by
  cases r <;> simp [State.writeReg]
@[simp] theorem State.writeReg_mac (r : Reg) (v : Word) (s : State) : (s.writeReg r v).mac = s.mac := by
  cases r <;> simp [State.writeReg]
@[simp] theorem State.writeReg_result (r : Reg) (v : Word) (s : State) : (s.writeReg r v).result = s.result := by
  cases r <;> simp [State.writeReg]
@[simp] theorem State.writeReg_err (r : Reg) (v : Word) (s : State) : (s.writeReg r v).err = s.err := by
  cases r <;> simp [State.writeReg]
@[simp] theorem State.writeReg_resetLine (r : Reg) (v : Word) (s : State) : (s.writeReg r v).resetLine = s.resetLine := by
  cases r <;> simp [State.writeReg]
@[simp] theorem State.writeReg_prog (r : Reg) (v : Word) (s : State) : (s.writeReg r v).prog = s.prog := by
  cases r <;> simp [State.writeReg]
@[simp] theorem State.writeReg_sched (r : Reg) (v : Word) (s : State) : (s.writeReg r v).sched = s.sched := by
  cases r <;> simp [State.writeReg]
@[simp] theorem State.writeReg_draws (r : Reg) (v : Word) (s : State) : (s.writeReg r v).draws = s.draws := by
  cases r <;> simp [State.writeReg]
@[simp] theorem State.writeReg_log (r : Reg) (v : Word) (s : State) : (s.writeReg r v).log = s.log := by
  cases r <;> simp [State.writeReg]

/-! ### readReg (R54) -/

theorem State.readWhenIdle_idle (v : Word) (s : State) (h : s.busy = false) : s.readWhenIdle v = (v, s) := by
  simp [State.readWhenIdle, h]

/-- A read moves the free-word counter at most (R54). -/
theorem State.readReg_state (r : Reg) (s : State) :
    (s.readReg r).2 = { s with draws := (s.readReg r).2.draws } := by
  cases r <;> simp only [State.readReg, State.readWhenIdle] <;> first | rfl | (split <;> rfl)

@[simp] theorem State.readReg_key (r : Reg) (s : State) : (s.readReg r).2.key = s.key := by
  rw [State.readReg_state]
@[simp] theorem State.readReg_sbox (r : Reg) (s : State) : (s.readReg r).2.sbox = s.sbox := by
  rw [State.readReg_state]
@[simp] theorem State.readReg_exp (r : Reg) (s : State) : (s.readReg r).2.exp = s.exp := by
  rw [State.readReg_state]
@[simp] theorem State.readReg_expStale (r : Reg) (s : State) : (s.readReg r).2.expStale = s.expStale := by
  rw [State.readReg_state]
@[simp] theorem State.readReg_iv (r : Reg) (s : State) : (s.readReg r).2.iv = s.iv := by
  rw [State.readReg_state]
@[simp] theorem State.readReg_ivLoaded (r : Reg) (s : State) : (s.readReg r).2.ivLoaded = s.ivLoaded := by
  rw [State.readReg_state]
@[simp] theorem State.readReg_mac (r : Reg) (s : State) : (s.readReg r).2.mac = s.mac := by
  rw [State.readReg_state]
@[simp] theorem State.readReg_data (r : Reg) (s : State) : (s.readReg r).2.data = s.data := by
  rw [State.readReg_state]
@[simp] theorem State.readReg_result (r : Reg) (s : State) : (s.readReg r).2.result = s.result := by
  rw [State.readReg_state]
@[simp] theorem State.readReg_err (r : Reg) (s : State) : (s.readReg r).2.err = s.err := by
  rw [State.readReg_state]
@[simp] theorem State.readReg_errs (r : Reg) (s : State) : (s.readReg r).2.errs = s.errs := by
  rw [State.readReg_state]
@[simp] theorem State.readReg_ovr (r : Reg) (s : State) : (s.readReg r).2.ovr = s.ovr := by
  rw [State.readReg_state]
@[simp] theorem State.readReg_pending (r : Reg) (s : State) : (s.readReg r).2.pending = s.pending := by
  rw [State.readReg_state]
@[simp] theorem State.readReg_resetLine (r : Reg) (s : State) : (s.readReg r).2.resetLine = s.resetLine := by
  rw [State.readReg_state]
@[simp] theorem State.readReg_prog (r : Reg) (s : State) : (s.readReg r).2.prog = s.prog := by
  rw [State.readReg_state]
@[simp] theorem State.readReg_sched (r : Reg) (s : State) : (s.readReg r).2.sched = s.sched := by
  rw [State.readReg_state]
@[simp] theorem State.readReg_log (r : Reg) (s : State) : (s.readReg r).2.log = s.log := by
  rw [State.readReg_state]

/-! ### readLogged, writeLogged -/

@[simp] theorem State.readLogged_key (r : Reg) (s : State) : (s.readLogged r).key = s.key := by
  simp [State.readLogged]
@[simp] theorem State.readLogged_sbox (r : Reg) (s : State) : (s.readLogged r).sbox = s.sbox := by
  simp [State.readLogged]
@[simp] theorem State.readLogged_exp (r : Reg) (s : State) : (s.readLogged r).exp = s.exp := by
  simp [State.readLogged]
@[simp] theorem State.readLogged_expStale (r : Reg) (s : State) : (s.readLogged r).expStale = s.expStale := by
  simp [State.readLogged]
@[simp] theorem State.readLogged_iv (r : Reg) (s : State) : (s.readLogged r).iv = s.iv := by
  simp [State.readLogged]
@[simp] theorem State.readLogged_ivLoaded (r : Reg) (s : State) : (s.readLogged r).ivLoaded = s.ivLoaded := by
  simp [State.readLogged]
@[simp] theorem State.readLogged_mac (r : Reg) (s : State) : (s.readLogged r).mac = s.mac := by
  simp [State.readLogged]
@[simp] theorem State.readLogged_data (r : Reg) (s : State) : (s.readLogged r).data = s.data := by
  simp [State.readLogged]
@[simp] theorem State.readLogged_result (r : Reg) (s : State) : (s.readLogged r).result = s.result := by
  simp [State.readLogged]
@[simp] theorem State.readLogged_err (r : Reg) (s : State) : (s.readLogged r).err = s.err := by
  simp [State.readLogged]
@[simp] theorem State.readLogged_errs (r : Reg) (s : State) : (s.readLogged r).errs = s.errs := by
  simp [State.readLogged]
@[simp] theorem State.readLogged_ovr (r : Reg) (s : State) : (s.readLogged r).ovr = s.ovr := by
  simp [State.readLogged]
@[simp] theorem State.readLogged_pending (r : Reg) (s : State) : (s.readLogged r).pending = s.pending := by
  simp [State.readLogged]
@[simp] theorem State.readLogged_resetLine (r : Reg) (s : State) : (s.readLogged r).resetLine = s.resetLine := by
  simp [State.readLogged]
@[simp] theorem State.readLogged_prog (r : Reg) (s : State) : (s.readLogged r).prog = s.prog := by
  simp [State.readLogged]
@[simp] theorem State.readLogged_sched (r : Reg) (s : State) : (s.readLogged r).sched = s.sched := by
  simp [State.readLogged]
@[simp] theorem State.readLogged_log (r : Reg) (s : State) : (s.readLogged r).log = .read r (s.readReg r).1 :: s.log := by
  simp [State.readLogged]
@[simp] theorem State.writeLogged_key (r : Reg) (v : Word) (s : State) : (s.writeLogged r v).key = s.key := by
  simp [State.writeLogged]
@[simp] theorem State.writeLogged_sbox (r : Reg) (v : Word) (s : State) : (s.writeLogged r v).sbox = s.sbox := by
  simp [State.writeLogged]
@[simp] theorem State.writeLogged_exp (r : Reg) (v : Word) (s : State) : (s.writeLogged r v).exp = s.exp := by
  simp [State.writeLogged]
@[simp] theorem State.writeLogged_expStale (r : Reg) (v : Word) (s : State) : (s.writeLogged r v).expStale = s.expStale := by
  simp [State.writeLogged]
@[simp] theorem State.writeLogged_iv (r : Reg) (v : Word) (s : State) : (s.writeLogged r v).iv = s.iv := by
  simp [State.writeLogged]
@[simp] theorem State.writeLogged_ivLoaded (r : Reg) (v : Word) (s : State) : (s.writeLogged r v).ivLoaded = s.ivLoaded := by
  simp [State.writeLogged]
@[simp] theorem State.writeLogged_mac (r : Reg) (v : Word) (s : State) : (s.writeLogged r v).mac = s.mac := by
  simp [State.writeLogged]
@[simp] theorem State.writeLogged_result (r : Reg) (v : Word) (s : State) : (s.writeLogged r v).result = s.result := by
  simp [State.writeLogged]
@[simp] theorem State.writeLogged_err (r : Reg) (v : Word) (s : State) : (s.writeLogged r v).err = s.err := by
  simp [State.writeLogged]
@[simp] theorem State.writeLogged_resetLine (r : Reg) (v : Word) (s : State) : (s.writeLogged r v).resetLine = s.resetLine := by
  simp [State.writeLogged]
@[simp] theorem State.writeLogged_prog (r : Reg) (v : Word) (s : State) : (s.writeLogged r v).prog = s.prog := by
  simp [State.writeLogged]
@[simp] theorem State.writeLogged_sched (r : Reg) (v : Word) (s : State) : (s.writeLogged r v).sched = s.sched := by
  simp [State.writeLogged]
@[simp] theorem State.writeLogged_draws (r : Reg) (v : Word) (s : State) : (s.writeLogged r v).draws = s.draws := by
  simp [State.writeLogged]
@[simp] theorem State.writeLogged_log (r : Reg) (v : Word) (s : State) : (s.writeLogged r v).log = .wrote r v :: s.log := by
  simp [State.writeLogged]

/-! ### assertReset (R200) -/

@[simp] theorem State.assertReset_key (s : State) : s.assertReset.key = State.reset.key := rfl
@[simp] theorem State.assertReset_sbox (s : State) : s.assertReset.sbox = State.reset.sbox := rfl
@[simp] theorem State.assertReset_exp (s : State) : s.assertReset.exp = State.reset.exp := rfl
@[simp] theorem State.assertReset_expStale (s : State) : s.assertReset.expStale = State.reset.expStale := rfl
@[simp] theorem State.assertReset_iv (s : State) : s.assertReset.iv = State.reset.iv := rfl
@[simp] theorem State.assertReset_ivLoaded (s : State) : s.assertReset.ivLoaded = State.reset.ivLoaded := rfl
@[simp] theorem State.assertReset_mac (s : State) : s.assertReset.mac = State.reset.mac := rfl
@[simp] theorem State.assertReset_data (s : State) : s.assertReset.data = State.reset.data := rfl
@[simp] theorem State.assertReset_result (s : State) : s.assertReset.result = State.reset.result := rfl
@[simp] theorem State.assertReset_err (s : State) : s.assertReset.err = State.reset.err := rfl
@[simp] theorem State.assertReset_errs (s : State) : s.assertReset.errs = State.reset.errs := rfl
@[simp] theorem State.assertReset_ovr (s : State) : s.assertReset.ovr = State.reset.ovr := rfl
@[simp] theorem State.assertReset_pending (s : State) : s.assertReset.pending = State.reset.pending := rfl
@[simp] theorem State.assertReset_resetLine (s : State) : s.assertReset.resetLine = true := rfl
@[simp] theorem State.assertReset_prog (s : State) : s.assertReset.prog = s.prog := rfl
@[simp] theorem State.assertReset_sched (s : State) : s.assertReset.sched = s.sched := rfl
@[simp] theorem State.assertReset_draws (s : State) : s.assertReset.draws = s.draws := rfl
@[simp] theorem State.assertReset_log (s : State) : s.assertReset.log = s.log := rfl

/-! ### latchBlock -/

@[simp] theorem State.latchBlock_key (s : State) (i : Instr) (x : Block) : (s.latchBlock i x).key = s.key := rfl
@[simp] theorem State.latchBlock_sbox (s : State) (i : Instr) (x : Block) : (s.latchBlock i x).sbox = s.sbox := rfl
@[simp] theorem State.latchBlock_exp (s : State) (i : Instr) (x : Block) : (s.latchBlock i x).exp = s.exp := rfl
@[simp] theorem State.latchBlock_expStale (s : State) (i : Instr) (x : Block) : (s.latchBlock i x).expStale = s.expStale := rfl
@[simp] theorem State.latchBlock_iv (s : State) (i : Instr) (x : Block) : (s.latchBlock i x).iv = s.iv := rfl
@[simp] theorem State.latchBlock_ivLoaded (s : State) (i : Instr) (x : Block) : (s.latchBlock i x).ivLoaded = s.ivLoaded := rfl
@[simp] theorem State.latchBlock_mac (s : State) (i : Instr) (x : Block) : (s.latchBlock i x).mac = s.mac := rfl
@[simp] theorem State.latchBlock_data (s : State) (i : Instr) (x : Block) : (s.latchBlock i x).data = s.data := rfl
@[simp] theorem State.latchBlock_result (s : State) (i : Instr) (x : Block) : (s.latchBlock i x).result = s.result := rfl
@[simp] theorem State.latchBlock_err (s : State) (i : Instr) (x : Block) : (s.latchBlock i x).err = s.err := rfl
@[simp] theorem State.latchBlock_errs (s : State) (i : Instr) (x : Block) : (s.latchBlock i x).errs = s.errs := rfl
@[simp] theorem State.latchBlock_ovr (s : State) (i : Instr) (x : Block) : (s.latchBlock i x).ovr = s.ovr := rfl
@[simp] theorem State.latchBlock_resetLine (s : State) (i : Instr) (x : Block) : (s.latchBlock i x).resetLine = s.resetLine := rfl
@[simp] theorem State.latchBlock_prog (s : State) (i : Instr) (x : Block) : (s.latchBlock i x).prog = s.prog := rfl
@[simp] theorem State.latchBlock_sched (s : State) (i : Instr) (x : Block) : (s.latchBlock i x).sched = s.sched := rfl
@[simp] theorem State.latchBlock_draws (s : State) (i : Instr) (x : Block) : (s.latchBlock i x).draws = s.draws := rfl
@[simp] theorem State.latchBlock_log (s : State) (i : Instr) (x : Block) : (s.latchBlock i x).log = s.log := rfl

/-- The operand block of a latched block command is the block it was latched with (R79). -/
@[simp] theorem State.latchBlock_operands (s : State) (i : Instr) (x : Block) :
    blockOf (s.latchBlock i x).operands = x := by
  cases x; simp [State.latchBlock, State.operands, blockOf]

/-! ### operands (R79) -/

theorem State.operands_latched (s : State) (p : Latched) (h : s.pending = some p) : s.operands = p.data := by
  simp [State.operands, h]

theorem State.operands_idle (s : State) (h : s.pending = none) : s.operands = s.data := by
  simp [State.operands, h]

end Sys2Proof.Machine
end

