-- ==== Sys2Proof/Laws/Ops.lean ====
section
/-! SUPPORT. What each shared operation can answer, once each (spec 00_scope.md R14; 42_modes.md R140; 30_encoding.md R78). -/

namespace Sys2Proof.Machine

@[simp] theorem getElem_tabulate {α : Type} (n : Nat) (f : Fin n → α) (i : Nat) (h : i < n) :
    (tabulate n f)[i] = f ⟨i, h⟩ := by
  simp [tabulate]

theorem complete_eq (s : State) : complete s = .next { s with err := .ok, pending := none } := rfl

theorem raiseError_eq (c : ErrCode) (s : State) :
    raiseError c s = .next { s with err := c, errs := true, pending := none } := rfl

/-- `requireBlockLen` raises ILLEGAL_COMMAND or goes on. -/
theorem requireBlockLen_cases (len : Len) (s : State) (k : Result) :
    (8 < len ∧ requireBlockLen len s k = raiseError .illegalCommand s) ∨
      (len ≤ 8 ∧ requireBlockLen len s k = k) := by
  unfold requireBlockLen
  split
  · exact .inl ⟨‹_›, rfl⟩
  · exact .inr ⟨BitVec.not_lt.mp ‹_›, rfl⟩

/-- `requireAligned` raises INVALID_BLOCK_ALIGNMENT or goes on. -/
theorem requireAligned_cases (len : Len) (s : State) (k : Result) :
    ((1 ≤ len ∧ len ≤ 7) ∧ requireAligned len s k = raiseError .invalidBlockAlignment s) ∨
      (¬ (1 ≤ len ∧ len ≤ 7) ∧ requireAligned len s k = k) := by
  unfold requireAligned
  split
  · exact .inl ⟨‹_›, rfl⟩
  · exact .inr ⟨‹_›, rfl⟩

theorem requireBlockLen_ok (len : Len) (s : State) (k : Result) (h : len ≤ 8) : requireBlockLen len s k = k :=
  if_neg (BitVec.not_lt.mpr h)

theorem requireAligned_ok (len : Len) (s : State) (k : Result) (h : ¬ (1 ≤ len ∧ len ≤ 7)) :
    requireAligned len s k = k :=
  if_neg h

theorem requireAligned_error (len : Len) (s : State) (k : Result) (h1 : 1 ≤ len) (h7 : len ≤ 7) :
    requireAligned len s k = raiseError .invalidBlockAlignment s :=
  if_pos ⟨h1, h7⟩

theorem requireIv_ok (s : State) (k : Result) (h : s.ivLoaded = true) : requireIv s k = k := if_pos h

/-- `requireConfigured` raises KEY_NOT_LOADED or SBOX_NOT_READY, or goes on with the key and the tables. -/
theorem requireConfigured_cases (s : State) (k : Cipher → Result) :
    (s.key = none ∧ requireConfigured s k = raiseError .keyNotLoaded s) ∨
      (∃ key, s.key = some key ∧ s.exp = none ∧ requireConfigured s k = raiseError .sboxNotReady s) ∨
      ∃ key exp, s.key = some key ∧ s.exp = some exp ∧ requireConfigured s k = k ⟨key, exp⟩ := by
  unfold requireConfigured
  split <;> simp_all

/-- `requireConfigured` on a configured engine. -/
theorem requireConfigured_configured (s : State) (k : Cipher → Result) (key : Words8) (exp : ExpTables)
    (hk : s.key = some key) (he : s.exp = some exp) : requireConfigured s k = k ⟨key, exp⟩ := by
  simp [requireConfigured, hk, he]

/-- `requireIv` raises IV_NOT_LOADED or goes on. -/
theorem requireIv_cases (s : State) (k : Result) :
    (s.ivLoaded = false ∧ requireIv s k = raiseError .ivNotLoaded s) ∨
      (s.ivLoaded = true ∧ requireIv s k = k) := by
  unfold requireIv
  split
  · exact .inr ⟨‹_›, rfl⟩
  · exact .inl ⟨by simpa using ‹¬ s.ivLoaded = true›, rfl⟩

/-- `allRows` gives a matrix exactly when every row is loaded, and then its rows are those. -/
theorem allRows_eq_some (m : Vector (Option SboxRow) 8) (full : Vector SboxRow 8) :
    allRows m = some full ↔ ∀ r : Fin 8, m[r] = some full[r] := by
  unfold allRows
  constructor
  · intro h r
    split at h
    · cases h; simp
    · cases h
  · intro h
    have hs : ∀ r : Fin 8, m[r].isSome := fun r => by simp [h r]
    rw [dif_pos hs]
    congr 1
    refine Vector.ext fun i hi => ?_
    have hi' : m[i] = some full[i] := h ⟨i, hi⟩
    simp [hi']

theorem allRows_eq_none (m : Vector (Option SboxRow) 8) :
    allRows m = none ↔ ∃ r : Fin 8, m[r] = none := by
  unfold allRows
  split
  · rename_i h
    simp only [reduceCtorEq, false_iff, not_exists]
    intro r hr
    simpa [hr] using h r
  · rename_i h
    simpa using h

/-- What an engine turn does with no command in flight: nothing. -/
theorem engineTurn_idle (s : State) (h : s.pending = none) : engineTurn s = .next s := by
  simp [engineTurn, h]

/-- An engine turn executes the command a legal latched word decodes to (R57). -/
theorem engineTurn_ok (s : State) (p : Latched) (i : Instr) (h : s.pending = some p) (hd : decode p.word = .ok i) :
    engineTurn s = exec i s := by
  simp [engineTurn, h, hd]

/-- An engine turn completes an illegal latched word with ILLEGAL_COMMAND (R57, R80). -/
theorem engineTurn_illegal (s : State) (p : Latched) (e : DecodeError) (h : s.pending = some p)
    (hd : decode p.word = .error e) : engineTurn s = raiseError .illegalCommand s := by
  simp [engineTurn, h, hd]

/-- What one step can be: an engine turn or a host turn, with the schedule advanced. -/
theorem step_cases (s : State) :
    (∃ rest, s.sched = .engine :: rest ∧ step s = engineTurn { s with sched := rest }) ∨
      (∃ rest, s.sched = .host :: rest ∧ step s = hostTurn { s with sched := rest }) ∨
      (s.sched = [] ∧ s.busy = true ∧ step s = engineTurn s) ∨
      (s.sched = [] ∧ s.busy = false ∧ step s = hostTurn s) := by
  unfold step takeTurn
  cases hs : s.sched with
  | nil => cases hb : s.busy <;> simp
  | cons a rest => cases a <;> simp

end Sys2Proof.Machine
end

