-- ==== Sys2Proof/Laws/Exec.lean ====
section
/-! SUPPORT. What one command can do: if exec answers next, one of the cases of `exec_cases` holds (spec 41_configuration.md, 42_modes.md, 43_mac.md). -/

namespace Sys2Proof.Machine

/-- The state a command leaves that raised `c` (R14). -/
def State.raised (c : ErrCode) (s : State) : State := { s with err := c, errs := true, pending := none }

/-- The state a command leaves that completed with nothing but ERR written (R14). -/
def State.completed (s : State) : State := { s with err := .ok, pending := none }

/-- The cases of a successful or failed command: which registers it can have written, and on which condition. -/
inductive Effect (i : Instr) (s : State) : State → Prop where
  | error (c : ErrCode) (h : c ≠ .ok) : Effect i s (s.raised c)
  | none : Effect i s s.completed
  | key (hi : i = .loadKey 32) (h : s.key = Option.none) :
      Effect i s { s with key := some s.operands }.completed
  | row (row : RowIndex) (hi : i = .loadSboxRow row 16) (h : rowOk (rowBytes s.operands) = true) :
      Effect i s { s with sbox := s.sbox.set row.toNat (some (rowOf (rowBytes s.operands))) row.isLt,
                          expStale := true }.completed
  | exp (m : Vector SboxRow 8) (hi : i = .expand) (h : allRows s.sbox = some m) :
      Effect i s { s with exp := some (expand m), expStale := false }.completed
  | loadIv (hi : i = .loadIv 8) : Effect i s { s with iv := blockOf s.operands, ivLoaded := true }.completed
  | iv (x : Block) (hi : i = .ctrInit) (hl : s.ivLoaded = true) : Effect i s { s with iv := x }.completed
  | result (x : Block) (hi : i = .ecbEnc 8 ∨ i = .ecbDec 8) : Effect i s { s with result := x }.completed
  | stream (x y : Block) (len : Len) (h0 : len ≠ 0) (h8 : len ≤ 8)
      (hi : i = .ctr len ∨ i = .cfbEnc len ∨ i = .cfbDec len) (hl : s.ivLoaded = true) :
      Effect i s { s with result := x, iv := y }.completed
  | mac (x : Block) (hi : i = .macReset ∨ i = .macUpdate 8 ∨ i = .macLoad) :
      Effect i s { s with mac := x }.completed

/-- A block command's LEN that is at most 8, not in 1..7 and not 0 is 8 (R78). -/
theorem len_eq_eight (len : Len) (h8 : len ≤ 8) (h : ¬ (1 ≤ len ∧ len ≤ 7)) (h0 : ¬ len = 0) : len = 8 := by
  bv_omega

theorem effect_raise (i : Instr) (s t : State) (c : ErrCode) (hc : c ≠ .ok) (h : raiseError c s = .next t) :
    Effect i s t := by
  cases h; exact .error c hc

/-- Every command that answers next has one of the effects. -/
theorem exec_effect (i : Instr) (s t : State) (h : exec i s = .next t) : Effect i s t := by
  cases i with
  | nop => cases h; exact .none
  | loadKey len =>
    simp only [exec, execLoadKey] at h
    split at h
    · exact effect_raise _ _ _ _ (by decide) h
    · rename_i hl
      split at h
      · exact effect_raise _ _ _ _ (by decide) h
      · rename_i hk
        cases h
        exact .key (by simpa using hl) (by simpa [State.keyLoaded] using hk)
  | loadSboxRow row len =>
    simp only [exec, execLoadSboxRow] at h
    split at h
    · exact effect_raise _ _ _ _ (by decide) h
    · rename_i hl
      split at h
      · rename_i hr
        cases h
        exact .row row (by simpa using hl) hr
      · exact effect_raise _ _ _ _ (by decide) h
  | expand =>
    simp only [exec, execExpand] at h
    split at h
    · exact effect_raise _ _ _ _ (by decide) h
    · rename_i m hm
      cases h
      exact .exp m rfl hm
  | loadIv len =>
    simp only [exec, execLoadIv] at h
    split at h
    · exact effect_raise _ _ _ _ (by decide) h
    · rename_i hl
      cases h
      exact .loadIv (by simpa using hl)
  | ctrInit =>
    simp only [exec, execCtrInit] at h
    obtain ⟨-, e⟩ | ⟨_, -, -, e⟩ | ⟨key, exp, -, -, e⟩ := requireConfigured_cases s _ <;> rw [e] at h
    · exact effect_raise _ _ _ _ (by decide) h
    · exact effect_raise _ _ _ _ (by decide) h
    obtain ⟨-, e⟩ | ⟨hl, e⟩ := requireIv_cases s _ <;> rw [e] at h
    · exact effect_raise _ _ _ _ (by decide) h
    · cases h; exact .iv _ rfl hl
  | macReset => cases h; exact .mac _ (.inl rfl)
  | macLoad => cases h; exact .mac _ (.inr (.inr rfl))
  | ecbEnc len | ecbDec len | macUpdate len =>
    simp only [exec, execEcbEnc, execEcbDec, execMacUpdate] at h
    obtain ⟨-, e⟩ | ⟨h8, e⟩ := requireBlockLen_cases len s _ <;> rw [e] at h
    · exact effect_raise _ _ _ _ (by decide) h
    obtain ⟨-, e⟩ | ⟨ha, e⟩ := requireAligned_cases len s _ <;> rw [e] at h
    · exact effect_raise _ _ _ _ (by decide) h
    obtain ⟨-, e⟩ | ⟨_, -, -, e⟩ | ⟨key, exp, -, -, e⟩ := requireConfigured_cases s _ <;> rw [e] at h
    · exact effect_raise _ _ _ _ (by decide) h
    · exact effect_raise _ _ _ _ (by decide) h
    split at h
    · cases h; exact .none
    · rename_i h0
      cases h
      first
        | exact .result _ (by simp [len_eq_eight len h8 ha h0])
        | exact .mac _ (by simp [len_eq_eight len h8 ha h0])
  | ctr len | cfbEnc len | cfbDec len =>
    simp only [exec, execCtr, execCfbEnc, execCfbDec] at h
    obtain ⟨-, e⟩ | ⟨h8, e⟩ := requireBlockLen_cases len s _ <;> rw [e] at h
    · exact effect_raise _ _ _ _ (by decide) h
    obtain ⟨-, e⟩ | ⟨_, -, -, e⟩ | ⟨key, exp, -, -, e⟩ := requireConfigured_cases s _ <;> rw [e] at h
    · exact effect_raise _ _ _ _ (by decide) h
    · exact effect_raise _ _ _ _ (by decide) h
    obtain ⟨-, e⟩ | ⟨hl, e⟩ := requireIv_cases s _ <;> rw [e] at h
    · exact effect_raise _ _ _ _ (by decide) h
    split at h
    · cases h; exact .none
    · rename_i h0
      cases h
      exact .stream _ _ len h0 h8 (by simp) hl

end Sys2Proof.Machine
end

