-- ==== Sys2Proof/Laws/Operands.lean ====
section
/-! SUPPORT. The operand forms, the bytes of a block, and where an access lands (spec 30_encoding.md R79; 41_configuration.md R122; 20_memory.md R51, R53). -/

namespace Sys2Proof.Machine

/-! ### S-box rows -/

/-- The checks of LOAD_SBOX_ROW, entry by entry (R185). -/
theorem rowOk_iff (v : Vector Byte 16) :
    rowOk v = true ↔ (∀ e : Fin 16, v[e] ≤ 15) ∧ ∀ e1 e2 : Fin 16, e1 ≠ e2 → v[e1] ≠ v[e2] := by
  unfold rowOk
  rw [decide_eq_true_iff]
  refine and_congr ⟨fun h e => h _ (by simp), fun h b hb => ?_⟩ ?_
  · obtain ⟨i, hi, rfl⟩ := List.getElem_of_mem hb
    simpa using h ⟨i, by simpa using hi⟩
  · rw [List.nodup_iff_injective_get]
    constructor
    · intro h e1 e2 hne he
      have := @h (Fin.cast (by simp) e1) (Fin.cast (by simp) e2) (by simpa using he)
      exact hne (by ext; simpa [Fin.ext_iff] using this)
    · intro h a b hab
      by_contra hne
      exact h (Fin.cast (by simp) a) (Fin.cast (by simp) b) (by simpa [Fin.ext_iff] using hne) (by simpa using hab)

/-- Sixteen distinct 4-bit entries are a permutation (R23). -/
theorem SboxRow.isPerm_of_distinct (r : SboxRow) (h : ∀ e1 e2 : Fin 16, e1 ≠ e2 → r[e1] ≠ r[e2]) : r.IsPerm := by
  have inj : Function.Injective fun e : Fin 16 => r[e].toFin := by
    intro a b hab
    by_contra hne
    exact h a b hne (congrArg BitVec.ofFin hab)
  have surj := Finite.injective_iff_surjective.1 inj
  constructor
  · rw [List.nodup_iff_injective_get]
    intro a b hab
    by_contra hne
    exact h (Fin.cast (by simp) a) (Fin.cast (by simp) b) (by simpa [Fin.ext_iff] using hne) (by simpa using hab)
  · intro x
    obtain ⟨e, he⟩ := surj x.toFin
    rw [← show r[e] = x from congrArg BitVec.ofFin he]
    simp

/-- The entries of a row whose bytes passed the checks are those bytes. -/
theorem rowOf_getElem (v : Vector Byte 16) (hv : ∀ e : Fin 16, v[e] ≤ 15) (e : Fin 16) :
    ((rowOf v)[e]).setWidth 8 = v[e] := by
  have := hv e
  simp [rowOf] at *
  bv_omega

/-- A row whose bytes passed the checks is a permutation. -/
theorem rowOk_isPerm (v : Vector Byte 16) (h : rowOk v = true) : (rowOf v).IsPerm := by
  obtain ⟨h1, h2⟩ := (rowOk_iff _).1 h
  refine SboxRow.isPerm_of_distinct _ fun e1 e2 hne he => h2 e1 e2 hne ?_
  rw [← rowOf_getElem v h1, ← rowOf_getElem v h1, he]

/-! ### Bytes of a block -/

/-- Byte `i` of a block is bits 8i+7:8i of its 64 bits (R79). -/
theorem Block.byte_getLsbD (x : Block) (i j : Nat) (hi : i < 8) (hj : j < 8) :
    (x.byte i).getLsbD j = (x.w1 ++ x.w0).getLsbD (8 * i + j) := by
  unfold Block.byte byteOf
  rw [BitVec.getLsbD_append]
  split
  · simp [hj]; intro; omega
  · simp [hj]; rw [if_neg (by omega)]; congr 1; omega

/-- A block is its eight bytes. -/
theorem Block.ext_byte (x y : Block) (h : ∀ i, i < 8 → x.byte i = y.byte i) : x = y := by
  have hw : x.w1 ++ x.w0 = y.w1 ++ y.w0 := by
    refine BitVec.eq_of_getLsbD_eq fun k hk => ?_
    have := congrArg (·.getLsbD (k % 8)) (h (k / 8) (by omega))
    simp only [Block.byte_getLsbD _ _ _ (show k / 8 < 8 by omega) (show k % 8 < 8 by omega)] at this
    rwa [show 8 * (k / 8) + k % 8 = k by omega] at this
  cases x
  cases y
  simp only [Block.mk.injEq] at *
  constructor
  · refine BitVec.eq_of_getLsbD_eq fun k hk => ?_
    have := congrArg (·.getLsbD k) hw
    simpa only [BitVec.getLsbD_append, hk, if_true] using this
  · refine BitVec.eq_of_getLsbD_eq fun k hk => ?_
    have := congrArg (·.getLsbD (k + 32)) hw
    simpa only [BitVec.getLsbD_append, if_neg (show ¬ k + 32 < 32 by omega), Nat.add_sub_cancel] using this

theorem Block.xor_byte (x y : Block) (i : Nat) : (x.xor y).byte i = x.byte i ^^^ y.byte i := by
  unfold Block.byte Block.xor byteOf
  split <;> (refine BitVec.eq_of_getLsbD_eq fun j hj => ?_; simp [hj])

theorem len_toNat_le (len : Len) (h : len ≤ 8) : len.toNat ≤ 8 := by bv_omega

theorem len_ne_zero (len : Len) (h : 1 ≤ len) : ¬ len = 0 := by bv_omega

/-! ### The window -/

theorem Reg.ofWord_offset (n : Fin 16) : (Reg.ofWord n).offset = 4 * n.val := by
  revert n; decide

/-- A 32-bit single access at word `n` reaches that word's register (R51, R53). -/
theorem target_word (n : Fin 16) (op : AccessOp) :
    Access.target ⟨((4 * n.val : Nat) : Int), 32, 1, op⟩ = .ok (Reg.ofWord n) := by
  unfold Access.target
  rw [if_neg (by simp), if_neg (by simp), dif_pos (by simp; omega), if_pos (by simp)]
  congr 2
  ext
  simp
  omega

/-- A 32-bit single access at a register's offset reaches it (R51). -/
theorem target_offset (r : Reg) (op : AccessOp) : Access.target ⟨(r.offset : Int), 32, 1, op⟩ = .ok r := by
  cases r with
  | data n =>
    have := target_word ⟨8 + n.val, by omega⟩ op
    simp only [Reg.offset]
    rw [show ((0x20 + 4 * n.val : Nat) : Int) = ((4 * (8 + n.val) : Nat) : Int) by omega, this]
    simp [Reg.ofWord]
  | _ => with_unfolding_all rfl

end Sys2Proof.Machine
end

