-- ==== Sys2Proof/Laws/Turns.lean ====
section
/-! SUPPORT. What one turn of each agent, and so one step, can do (spec 20_memory.md R53 to R60; 70_reset_and_hazards.md R200, R217). -/

namespace Sys2Proof.Machine

/-- A command leaves no command in flight (R57). -/
theorem effect_pending (i : Instr) (s t : State) (h : Effect i s t) : t.pending = none := by
  cases h <;> rfl

/-- A command leaves alone what the engine does not write: DATA, OVR, the reset line and the model's own fields. -/
theorem effect_frame (i : Instr) (s t : State) (h : Effect i s t) :
    t.data = s.data ∧ t.ovr = s.ovr ∧ t.resetLine = s.resetLine ∧ t.prog = s.prog ∧ t.sched = s.sched ∧
      t.draws = s.draws ∧ t.log = s.log := by
  cases h <;> exact ⟨rfl, rfl, rfl, rfl, rfl, rfl, rfl⟩

/-- An engine turn does nothing, raises ILLEGAL_COMMAND, or has an effect of the latched command (R57, R80). -/
theorem engineTurn_cases (s t : State) (h : engineTurn s = .next t) :
    (s.pending = none ∧ t = s) ∨
      ∃ p, s.pending = some p ∧
        ((∃ e, decode p.word = .error e ∧ t = s.raised .illegalCommand) ∨
          ∃ i, decode p.word = .ok i ∧ Effect i s t) := by
  unfold engineTurn at h
  split at h
  · cases h; exact .inl ⟨‹_›, rfl⟩
  · refine .inr ⟨_, ‹_›, ?_⟩
    split at h
    · exact .inr ⟨_, ‹_›, exec_effect _ _ _ h⟩
    · cases h; exact .inl ⟨_, ‹_›, rfl⟩

/-- A read changes the free-word counter and the host's log, and nothing else (R54). -/
theorem readLogged_eq (r : Reg) (s : State) :
    s.readLogged r = { s with draws := (s.readReg r).2.draws, log := .read r (s.readReg r).1 :: s.log } := by
  cases hb : s.busy <;> cases r <;> simp [State.readLogged, State.readReg, State.readWhenIdle, hb]

/-- A write changes DATA, ERRS, OVR, the latched command and the host's log, and nothing else (R55, R56, R58). -/
theorem writeLogged_eq (r : Reg) (v : Word) (s : State) :
    s.writeLogged r v =
      { s with data := (s.writeReg r v).data, errs := (s.writeReg r v).errs, ovr := (s.writeReg r v).ovr,
               pending := (s.writeReg r v).pending, log := .wrote r v :: s.log } := by
  cases r
  case cmd => cases hp : s.pending <;> simp [State.writeLogged, State.writeReg, State.writeCmd, hp]
  all_goals simp [State.writeLogged, State.writeReg, State.writeStatus]

/-- A write leaves a command in flight as it is (R56, R59). -/
theorem writeReg_pending (r : Reg) (v : Word) (s : State) (h : s.pending ≠ none) :
    (s.writeReg r v).pending = s.pending := by
  cases r
  case cmd =>
    obtain ⟨p, hp⟩ := Option.ne_none_iff_exists'.mp h
    simp [State.writeReg, State.writeCmd, hp]
  all_goals rfl

/-- A bus access that answers next is a read or a write of one register, with reset released. -/
theorem busAccess_cases (a : Access) (s t : State) (h : busAccess a s = .next t) :
    s.resetLine = false ∧ ∃ r, a.target = .ok r ∧
      ((a.op = .read ∧ t = s.readLogged r) ∨ ∃ v, a.op = .write v ∧ t = s.writeLogged r v) := by
  unfold busAccess at h
  split at h
  · cases h
  refine ⟨by simpa using ‹¬ s.resetLine = true›, ?_⟩
  split at h
  · cases h
  rename_i r hr
  refine ⟨r, hr, ?_⟩
  split at h
  · cases h; exact .inl ⟨‹_›, rfl⟩
  · cases h; exact .inr ⟨_, ‹_›, rfl⟩

/-- What one host turn can be: nothing, an access, a poll of STATUS, or a move of the reset input (R217). -/
theorem hostTurn_cases (s t : State) (h : hostTurn s = .next t) :
    (s.prog = [] ∧ t = s) ∨
      (∃ a rest, s.prog = .access a :: rest ∧ busAccess a { s with prog := rest } = .next t) ∨
      (∃ rest, s.prog = .wait :: rest ∧ s.resetLine = false ∧
        (s.statusWord.getLsbD 0 = true ∧ t = s.readLogged .status ∨
          s.statusWord.getLsbD 0 = false ∧ t = { s.readLogged .status with prog := rest })) ∨
      (∃ rest, s.prog = .assertReset :: rest ∧ t = { s.assertReset with prog := rest }) ∨
      (∃ rest, s.prog = .releaseReset :: rest ∧ t = { s with resetLine := false, prog := rest }) := by
  unfold hostTurn at h
  split at h
  · cases h; exact .inl ⟨‹_›, rfl⟩
  · exact .inr (.inl ⟨_, _, ‹_›, h⟩)
  · refine .inr (.inr (.inl ⟨_, ‹_›, ?_⟩))
    unfold pollStatus at h
    split at h
    · cases h
    refine ⟨by simpa using ‹¬ s.resetLine = true›, ?_⟩
    split at h
    · cases h; exact .inl ⟨‹_›, rfl⟩
    · cases h; exact .inr ⟨by simpa using ‹¬ _ = true›, rfl⟩
  · cases h; exact .inr (.inr (.inr (.inl ⟨_, ‹_›, rfl⟩)))
  · cases h; exact .inr (.inr (.inr (.inr ⟨_, ‹_›, rfl⟩)))

/-- A step that answers next is an engine turn or a host turn at the same state with some of the schedule used. -/
theorem step_next_cases (s t : State) (h : step s = .next t) :
    ∃ q, engineTurn { s with sched := q } = .next t ∨ hostTurn { s with sched := q } = .next t := by
  rcases step_cases s with ⟨r, -, e⟩ | ⟨r, -, e⟩ | ⟨h0, -, e⟩ | ⟨h0, -, e⟩
  · exact ⟨r, .inl (e ▸ h)⟩
  · exact ⟨r, .inr (e ▸ h)⟩
  · exact ⟨s.sched, .inl (e ▸ h)⟩
  · exact ⟨s.sched, .inr (e ▸ h)⟩

end Sys2Proof.Machine
end

