-- ==== Sys2Proof/Tests/Slice0.lean ====
section
/-! SUPPORT. Tests. Expected values: spec 95_test_vectors.md (section named at each test), 30_encoding.md R84, or the rule named. Then, for each statement of Obligations.lean with hypotheses, a witness that meets them. -/

namespace Sys2Proof.Tests

open Sys2Proof Sys2Proof.Machine

/-! ### Small states -/

/-- The S-box of 95_test_vectors.md 1.1. -/
def rows : Vector SboxRow 8 := #v[
  #v[4, 10, 9, 2, 13, 8, 0, 14, 6, 11, 1, 12, 7, 15, 5, 3],
  #v[14, 11, 4, 12, 6, 13, 15, 10, 2, 3, 8, 1, 0, 7, 5, 9],
  #v[5, 8, 1, 13, 10, 3, 4, 2, 14, 15, 12, 7, 6, 0, 9, 11],
  #v[7, 13, 10, 1, 0, 8, 9, 15, 14, 4, 6, 12, 11, 2, 5, 3],
  #v[6, 12, 7, 1, 5, 15, 13, 8, 4, 10, 9, 14, 0, 3, 11, 2],
  #v[4, 11, 10, 0, 7, 2, 1, 13, 3, 6, 8, 5, 9, 12, 15, 14],
  #v[13, 11, 4, 1, 3, 15, 5, 9, 0, 10, 14, 7, 6, 8, 2, 12],
  #v[1, 15, 13, 0, 5, 7, 10, 4, 9, 2, 3, 14, 6, 11, 8, 12]]

/-- The key of 95_test_vectors.md 1.1. -/
def key8 : Words8 :=
  #v[0x33323130, 0x37363534, 0x31303938, 0x35343332, 0x39383736, 0x33323130, 0x37363534, 0x32313938]

def tables : ExpTables := expand rows

def cipher : Cipher := ⟨key8, tables⟩

/-- All rows loaded, not expanded: STATUS = 0x00FF0400 of 95_test_vectors.md P0. -/
def loaded : State := { State.reset with sbox := tabulate 8 fun r => some rows[r], expStale := true }

/-- The end state of program P0 (95_test_vectors.md 3), with DATA zero. -/
def p0 : State := { State.reset with key := some key8, sbox := tabulate 8 fun r => some rows[r], exp := some tables }

/-- P0 with an IV loaded. -/
def p0iv (iv : Block) : State := { p0 with iv := iv, ivLoaded := true }

/-- DATA with the given first four words. -/
def data4 (a b c d : Word) : Words8 := #v[a, b, c, d, 0, 0, 0, 0]

/-- Row 0's operand words (95_test_vectors.md 2.5). -/
def row0Words : Words8 := data4 0x02090A04 0x0E00080D 0x0C010B06 0x03050F07

/-- `s` with the word `w` accepted on operands `d`. -/
def latch (w : Word) (d : Words8) (s : State) : State := { s with pending := some ⟨w, d⟩ }

/-- The state an answer holds, or reset's. -/
def stateOf : Result → State
  | .next t => t
  | .fault _ => State.reset
  | .refused _ => State.reset

/-- An answer that is a next state. -/
def isNext : Result → Bool
  | .next _ => true
  | .fault _ => false
  | .refused _ => false

/-- A next state with a property, from the two evaluated. -/
theorem exists_next (r : Result) (P : State → Prop) (h : isNext r = true) (hp : P (stateOf r)) :
    ∃ t, r = .next t ∧ P t := by
  cases r with
  | next t => exact ⟨t, rfl, hp⟩
  | fault f => cases f
  | refused _ => cases h

/-- A command word run on operands from a state. -/
def run (w : Word) (d : Words8) (s : State) : State := stateOf (engineTurn (latch w d s))

/-- The operands of the block "ABCDEFGH" (95_test_vectors.md 1.1). -/
def abcdefgh : Words8 := data4 0x44434241 0x48474645 0 0

/-! ### WellFormed refuses LEN > 8 on each block command (R72, R78), and nothing else -/

theorem test_wf_refuses_ecbEnc : (Instr.ecbEnc 9).wf = false := by decide
theorem test_wf_refuses_ecbDec : (Instr.ecbDec 9).wf = false := by decide
theorem test_wf_refuses_ctr : (Instr.ctr 63).wf = false := by decide
theorem test_wf_refuses_cfbEnc : (Instr.cfbEnc 9).wf = false := by decide
theorem test_wf_refuses_cfbDec : (Instr.cfbDec 9).wf = false := by decide
theorem test_wf_refuses_macUpdate : (Instr.macUpdate 9).wf = false := by decide
theorem test_wf_allows_any_buffer_length : (Instr.loadKey 63).wf = true ∧ (Instr.loadIv 9).wf = true := by decide

/-! ### Decoding, words written out from R70: `row << 16 | len << 8 | opc` (R84) -/

theorem test_decode_nop : decodeTableWord 32 0x00000000 = some .nop := by decide
theorem test_decode_loadKey : decodeTableWord 32 0x00002001 = some (.loadKey 32) := by decide
theorem test_decode_loadSboxRow : decodeTableWord 32 0x00071002 = some (.loadSboxRow 7 16) := by decide
theorem test_decode_expand : decodeTableWord 32 0x00000003 = some .expand := by decide
theorem test_decode_loadIv : decodeTableWord 32 0x00000804 = some (.loadIv 8) := by decide
theorem test_decode_ctrInit : decodeTableWord 32 0x00000005 = some .ctrInit := by decide
theorem test_decode_ecbEnc : decodeTableWord 32 0x00000808 = some (.ecbEnc 8) := by decide
theorem test_decode_ecbDec : decodeTableWord 32 0x00000809 = some (.ecbDec 8) := by decide
theorem test_decode_ctr : decodeTableWord 32 0x0000030A = some (.ctr 3) := by decide
theorem test_decode_cfbEnc : decodeTableWord 32 0x0000080C = some (.cfbEnc 8) := by decide
theorem test_decode_cfbDec : decodeTableWord 32 0x0000050D = some (.cfbDec 5) := by decide
theorem test_decode_macReset : decodeTableWord 32 0x00000010 = some .macReset := by decide
theorem test_decode_macUpdate : decodeTableWord 32 0x00000811 = some (.macUpdate 8) := by decide
theorem test_decode_macLoad : decodeTableWord 32 0x00000012 = some .macLoad := by decide

/-- The illegal words of R84, each with its reason. -/
theorem test_decode_illegal :
    decode 0x00000908 = .error .lenTooLong ∧ decode 0x00010808 = .error .unusedField ∧
    decode 0x80000808 = .error .reservedBits ∧ decode 0x00004808 = .error .reservedBits ∧
    decode 0x0000000B = .error .reservedOpcode ∧ decode 0x00000103 = .error .unusedField ∧
    decode 0x00081002 = .error .reservedBits := by decide

/-- The byte at the lowest address is bits 7:0 (R52), and three bytes are no word. -/
theorem test_decode_bytes :
    decodeBytes [0x02, 0x10, 0x07, 0x00, 0xAA] = .ok (.loadSboxRow 7 16, [0xAA]) ∧
    decodeBytes [0x02, 0x10, 0x07] = .error .truncated := by decide

/-- No two rows of the opcode table overlap: they differ in a bit both fix (R71, R76). -/
theorem test_opcode_rows_disjoint :
    opcodeTable.Pairwise fun r q => (r.value ^^^ q.value) &&& (r.mask &&& q.mask) ≠ 0 := by decide

theorem test_encode_fields : encode (.loadSboxRow 7 16) = 0x00071002 ∧ encode (.ctr 3) = 0x0000030A := by decide

/-! ### The datapath (95_test_vectors.md 2.1 to 2.4) -/

theorem test_expand_corners :
    (expandEntry rows 0 0x00, expandEntry rows 0 0x01, expandEntry rows 0 0x10, expandEntry rows 0 0xA5,
     expandEntry rows 1 0xFF, expandEntry rows 2 0x00, expandEntry rows 3 0xAB) =
    (0xE4, 0xEA, 0xB4, 0x88, 0x3B, 0x46, 0x37) := by decide

theorem test_subst : subst tables 0x12345678 = 0xF40584A6 := by decide

theorem test_roundF_wraps : roundF tables 0x80000000 0x80000000 = 0x33AF20EA := by decide

theorem test_roundF_carries : roundF tables 0xFFFFFFFF 0xFFFFFFFF = 0x11DCAE67 := by decide

theorem test_encrypt32 : encrypt32 cipher ⟨0, 0⟩ = ⟨0xAD243FB1, 0xC615E1B2⟩ := by decide

theorem test_decrypt32 : decrypt32 cipher ⟨0, 0⟩ = ⟨0xD6F00F57, 0x26249A7A⟩ := by decide

theorem test_compress16 : compress16 cipher ⟨0xFFFFFFFF, 0xFFFFFFFF⟩ = ⟨0x68D26696, 0x45A6B788⟩ := by decide

/-- The 32-round trace of section 2.3 after rounds 1, 2 and 3. -/
theorem test_tick_trace :
    let u := FeistelUnit.start .encrypt ⟨0x44434241, 0x48474645⟩
    (FeistelUnit.run cipher 1 u = ⟨0x44434241, 0xB7AA140B, 1, .encrypt⟩) ∧
    (FeistelUnit.run cipher 3 u = ⟨0xF43D5E56, 0x2DBB3AF3, 3, .encrypt⟩) := by decide

/-- The key column of that trace (rounds 1, 8, 9, 24, 25, 32), and R109's decrypt row. -/
theorem test_key_schedule :
    [1, 8, 9, 24, 25, 32].map Schedule.encrypt.keyIndex = [0, 7, 0, 7, 7, 0] ∧
    [1, 8, 9, 16, 17, 32].map Schedule.decrypt.keyIndex = [0, 7, 7, 0, 7, 0] ∧
    [1, 8, 9, 16].map Schedule.compress.keyIndex = [0, 7, 0, 7] := by decide

theorem test_trunc :
    trunc ⟨0x44434241, 0x48474645⟩ 5 = ⟨0x44434241, 0x00000045⟩ ∧
    trunc ⟨0x44434241, 0x48474645⟩ 4 = ⟨0x44434241, 0⟩ ∧ trunc ⟨0x44434241, 0x48474645⟩ 3 = ⟨0x00434241, 0⟩ ∧
    trunc ⟨0x44434241, 0x48474645⟩ 0 = ⟨0, 0⟩ ∧
    trunc ⟨0x44434241, 0x48474645⟩ 8 = ⟨0x44434241, 0x48474645⟩ := by decide

theorem test_ctrStep_endAround :
    ctrStep .endAround ⟨0xFFFFFFFF, 0xFEFEFEFB⟩ = ⟨0x01010100, 0xFFFFFFFF⟩ ∧
    ctrStep .endAround ⟨0x12345678, 0xFEFEFEFC⟩ = ⟨0x13355779, 0x00000001⟩ ∧
    ctrStep .endAround ⟨0, 0xFFFFFFFF⟩ = ⟨0x01010101, 0x01010104⟩ ∧
    ctrStep .endAround ⟨0, 0x7FFFFFFF⟩ = ⟨0x01010101, 0x81010103⟩ := by decide

theorem test_ctrStep_plain :
    ctrStep .plain ⟨0x12345678, 0xFEFEFEFC⟩ = ⟨0x13355779, 0x00000000⟩ ∧
    ctrStep .plain ⟨0, 0xFFFFFFFF⟩ = ⟨0x01010101, 0x01010103⟩ := by decide

/-! ### Configuration commands (95_test_vectors.md 2.5) -/

theorem test_nop_clears_err_only :
    (run 0x00000000 abcdefgh { State.reset with err := .illegalCommand, errs := true }).statusWord = 0x00001000 := by
  decide

theorem test_loadKey : (run 0x00002001 key8 State.reset).statusWord = 0x00000100 ∧
    (run 0x00002001 key8 State.reset).key = some key8 := by decide

theorem test_loadKey_errors : (run 0x00002001 key8 p0).statusWord = 0x00FF1360 ∧
    (run 0x00001001 key8 p0).statusWord = 0x00FF1320 := by decide

theorem test_loadSboxRow : (run 0x00071002 (data4 0x000D0F01 0x040A0705 0x0E030209 0x0C080B06) State.reset).statusWord
      = 0x00800400 ∧
    (run 0x00001002 row0Words State.reset).sbox[0] = some rows[0] := by decide

theorem test_loadSboxRow_rejects :
    (run 0x00000F02 row0Words p0).statusWord = 0x00FF1350 ∧
    (run 0x00001002 (data4 0x02090A10 0x0E00080D 0x0C010B06 0x03050F07) p0).statusWord = 0x00FF1350 ∧
    (run 0x00001002 (data4 0x02090A0F 0x0E00080D 0x0C010B06 0x03050F07) p0).statusWord = 0x00FF1350 := by decide

theorem test_expand_status : (run 0x00000003 abcdefgh loaded).statusWord = 0x00FF0200 ∧
    (run 0x00000003 abcdefgh State.reset).statusWord = 0x00001080 := by decide

theorem test_loadIv : (run 0x00000804 (data4 5 6 0 0) State.reset).iv = ⟨5, 6⟩ ∧
    (run 0x00000804 (data4 5 6 0 0) State.reset).statusWord = 0x00000800 := by decide

theorem test_loadIv_rejects : (run 0x00000704 abcdefgh p0).statusWord = 0x00FF1330 := by decide

/-! ### Mode commands (95_test_vectors.md 2.6, 2.8) -/

theorem test_ecbEnc : (run 0x00000808 abcdefgh p0).result = ⟨0x964D766E, 0x186F40B1⟩ := by decide

theorem test_ecbEnc_errors : (run 0x00000408 abcdefgh State.reset).statusWord = 0x00001040 ∧
    (run 0x00000008 abcdefgh State.reset).statusWord = 0x00001070 ∧
    (run 0x00000908 abcdefgh State.reset).statusWord = 0x00001010 := by decide

theorem test_ecbDec :
    (run 0x00000809 (data4 0x964D766E 0x186F40B1 0 0) p0).result = ⟨0x44434241, 0x48474645⟩ := by decide

theorem test_ecbDec_illegal_len : (run 0x00000909 abcdefgh p0).statusWord = 0x00FF1310 := by decide

theorem test_ctrInit : (run 0x00000005 abcdefgh (p0iv ⟨0x01234567, 0x89ABCDEF⟩)).iv = ⟨0xBB9E8B90, 0x0BD3BD44⟩ := by
  decide

theorem test_ctrInit_needs_iv : (run 0x00000005 abcdefgh p0).statusWord = 0x00FF1390 := by decide

/-- The counter's high word is below the carry bound, so the value is the same under both settings (2.4). -/
theorem test_ctr : (run 0x0000080A abcdefgh (p0iv ⟨0xBB9E8B90, 0x0BD3BD44⟩)).result = ⟨0xB87769E9, 0x0B259DD6⟩ := by
  decide

theorem test_ctr_partial :
    (run 0x0000030A (data4 0x005A5958 0 0 0) (p0iv ⟨0xBC9F8C91, 0x0CD4BE48⟩)).result = ⟨0x00BAED1B, 0⟩ := by decide

theorem test_cfbEnc_partial_iv :
    (run 0x0000050C (data4 0x54535251 0x00000055 0 0) (p0iv ⟨0x9AB33729, 0xC8A4E7D9⟩)).iv = ⟨0xF75711A5, 0x055C998B⟩ := by
  decide

theorem test_cfbEnc :
    (run 0x0000080C abcdefgh (p0iv ⟨0x01234567, 0x89ABCDEF⟩)).result = ⟨0xFFDDC9D1, 0x4394FB01⟩ := by decide

theorem test_cfbDec_partial :
    (run 0x0000050D (data4 0xF75711A5 0x0000008B 0 0) (p0iv ⟨0x9AB33729, 0xC8A4E7D9⟩)).result =
      ⟨0x54535251, 0x00000055⟩ := by decide

theorem test_cfbDec_partial_iv :
    (run 0x0000050D (data4 0xF75711A5 0x0000008B 0 0) (p0iv ⟨0x9AB33729, 0xC8A4E7D9⟩)).iv = ⟨0xF75711A5, 0x0000008B⟩ := by
  decide

/-! ### MAC commands (95_test_vectors.md 2.7) -/

theorem test_macUpdate :
    (run 0x00000811 (data4 0x4C4B4A49 0x504F4E4D 0 0) { p0 with mac := ⟨0xF494E7CC, 0xE3B20D26⟩ }).mac =
      ⟨0x1779CC8F, 0x6CBA4FB2⟩ := by decide

theorem test_macUpdate_unaligned : (run 0x00000711 abcdefgh p0).statusWord = 0x00FF1340 ∧
    (run 0x00000711 abcdefgh p0).mac = ⟨0, 0⟩ := by decide

theorem test_macReset : (run 0x00000010 abcdefgh { p0 with mac := ⟨0xF494E7CC, 0xE3B20D26⟩ }).mac = ⟨0, 0⟩ := by decide

theorem test_macLoad : (run 0x00000012 (data4 5 6 0 0) State.reset).mac = ⟨5, 6⟩ ∧
    (run 0x00000012 (data4 5 6 0 0) State.reset).statusWord = 0 := by decide

/-! ### Bus and STATUS (95_test_vectors.md 2.9, 2.10) -/

/-- The state after one host access, reset's where it is refused. -/
def access (off : Int) (bits : Nat) (op : AccessOp) (s : State) : State := stateOf (busAccess ⟨off, bits, 1, op⟩ s)

theorem test_status_w1c :
    let s : State := { State.reset with key := some key8, errs := true, ovr := true }
    s.statusWord = 0x00003100 ∧ (access 4 32 (.write 0x00003000) s).statusWord = 0x00000100 ∧
      (access 4 32 (.write 0x00001000) s).statusWord = 0x00002100 ∧
      (access 4 32 (.write 0xFFFFFFFF) { State.reset with key := some key8 }).statusWord = 0x00000100 := by decide

theorem test_overrun :
    let s : State := latch 0x00000000 key8 { State.reset with key := some key8, err := .keyLocked, errs := true }
    s.statusWord = 0x00001161 ∧ (access 0 32 (.write 0x00000003) s).statusWord = 0x00003161 ∧
      (stateOf (engineTurn (access 0 32 (.write 0x00000003) s))).statusWord = 0x00003100 := by decide

theorem test_read_cmd : (access 0 32 .read p0).log = [.read .cmd 0] := by decide

theorem test_read_only_write : (access 8 32 (.write 0x12345678) p0).result = ⟨0, 0⟩ := by decide

/-- Each kind of refused access, and the last legal offset (R53). -/
theorem test_refused_accesses :
    Access.target ⟨8, 8, 1, .read⟩ = .error .width ∧ Access.target ⟨0x0A, 32, 1, .read⟩ = .error .misaligned ∧
    Access.target ⟨0x40, 32, 1, .read⟩ = .error .outsideWindow ∧
    Access.target ⟨-4, 32, 1, .read⟩ = .error .outsideWindow ∧
    Access.target ⟨0, 32, 2, .read⟩ = .error .burst ∧ Access.target ⟨0, 64, 1, .read⟩ = .error .width ∧
    Access.target ⟨0x3C, 32, 1, .read⟩ = .ok (.data 7) := by decide

/-- A DATA write during BUSY lands in DATA and not in the command in flight (R59). -/
theorem test_data_write_while_busy :
    let s := access 0x20 32 (.write 0x11111111) (latch 0x00000804 (data4 5 6 0 0) State.reset)
    s.data[0] = 0x11111111 ∧ (stateOf (engineTurn s)).iv = ⟨5, 6⟩ := by decide

theorem test_stale_tables :
    let s := run 0x00001002 (data4 0x0C040B0E 0x0A0F0D06 0x01080302 0x09050700) p0
    s.statusWord = 0x00FF0700 ∧ (run 0x00000003 abcdefgh s).statusWord = 0x00FF0300 := by decide

/-- The host's script of the first line of program P5: ECB_ENC at reset raises KEY_NOT_LOADED. -/
theorem test_fetch_word_step :
    (stateOf (step (State.reset.withFetchWord 32 0x00000808))).statusWord = 0x00001070 := by decide

theorem test_script_cmd :
    Script.cmd (.loadSboxRow 7 16) = some [.access ⟨0, 32, 1, .write 0x00071002⟩] ∧ Script.cmd (.ctr 9) = none ∧
    Script.bytes [0x41, 0x42, 0x43, 0x44, 0x45] =
      some [.access ⟨0x20, 32, 1, .write 0x44434241⟩, .access ⟨0x24, 32, 1, .write 0x00000045⟩] := by decide

theorem test_reset_abandons :
    (stateOf (hostTurn (latch 0x00000003 key8 { p0 with prog := [.assertReset] }))).statusWord = 0 := by decide

/-! ### Witnesses: every hypothesis of a statement met together, each clause at a boundary -/

theorem witness_DecodeEncodeAgree :
    (Instr.ctr 8).wf = true ∧ (Instr.loadSboxRow 7 63).wf = true ∧ Instr.nop.wf = true := by decide

theorem witness_DecodedWordIsItsEncoding : decode 0x00073F02 = .ok (.loadSboxRow 7 63) := by decide

/-- One word for each way a word can be illegal, at both ends of the reserved opcodes. -/
theorem witness_IllegalWordCompletesWithIllegalCommand :
    (latch 0x00004808 key8 p0).pending = some ⟨0x00004808, key8⟩ ∧
    (0x00004808 : Word).extractLsb' 14 2 ≠ 0 ∧ (0x80000808 : Word).extractLsb' 19 13 ≠ 0 ∧
    (0x00081002 : Word).extractLsb' 19 13 ≠ 0 ∧
    ((0x00010808 : Word).extractLsb' 16 3 ≠ 0 ∧ (0x00010808 : Word).extractLsb' 0 8 ≠ 0x02) ∧
    ((0x00000103 : Word).extractLsb' 8 6 ≠ 0 ∧
      (0x00000103 : Word).extractLsb' 0 8 ∈ ([0x00, 0x03, 0x05, 0x10, 0x12] : List (BitVec 8))) ∧
    (0x0000000B : Word).extractLsb' 0 8 ∈ ([0x06, 0x07, 0x0B, 0x0E, 0x0F] : List (BitVec 8)) ∧
    0x13 ≤ (0x00000013 : Word).extractLsb' 0 8 ∧ 0x13 ≤ (0x000000FF : Word).extractLsb' 0 8 := by decide

theorem witness_LenChecksSplitBetweenDecoderAndCommand :
    (latch 0x00000908 key8 p0).pending = some ⟨0x00000908, key8⟩ ∧
    ((0x00000908 : Word).extractLsb' 8 6 > (8 : Len) ∧
      (0x00000908 : Word).extractLsb' 0 8 ∈ ([0x08, 0x09, 0x0A, 0x0C, 0x0D, 0x11] : List (BitVec 8))) ∧
    ((0x00003F11 : Word).extractLsb' 8 6 > (8 : Len) ∧
      (0x00003F11 : Word).extractLsb' 0 8 ∈ ([0x08, 0x09, 0x0A, 0x0C, 0x0D, 0x11] : List (BitVec 8))) ∧
    (1 : Len) ≤ 1 ∧ (1 : Len) ≤ 7 ∧ (7 : Len) ≤ 7 ∧ (31 : Len) ≠ 32 ∧ (9 : Len) ≠ 8 ∧ (17 : Len) ≠ 16 := by decide

theorem witness_EngineStepRunsLatchedCommand :
    let s := latch 0x00000808 abcdefgh { p0 with sched := [.engine, .host] }
    s.pending = some ⟨0x00000808, abcdefgh⟩ ∧ decode 0x00000808 = .ok (.ecbEnc 8) ∧ s.sched = .engine :: [.host] ∧
      (latch 0x00000808 abcdefgh p0).sched = [] ∧ decode 0x0000000B = .error .reservedOpcode := by
  exact ⟨rfl, by decide, rfl, rfl, by decide⟩

/-- An access, an operation list that is over, and each case of one pass of `wait`: in reset, busy, idle. -/
theorem witness_HostStepPerformsNextOperation :
    let s : State := { State.reset with prog := [.access ⟨4, 32, 1, .read⟩, .wait], sched := [.host] }
    let w : State := { State.reset with prog := [.wait] }
    (s.prog = .access ⟨4, 32, 1, .read⟩ :: [.wait] ∧ s.sched = .host :: []) ∧
    (w.sched = [] ∧ w.pending = none ∧ State.reset.prog = []) ∧
    ({ w with prog := [.releaseReset] } : State).prog = .releaseReset :: [] ∧
    (w.prog = .wait :: [] ∧ w.resetLine = false ∧ w.statusWord.getLsbD 0 = false) ∧
    ((latch 3 key8 w).prog = .wait :: [] ∧ (latch 3 key8 w).resetLine = false ∧
      (latch 3 key8 w).statusWord.getLsbD 0 = true) ∧
    (({ w with resetLine := true } : State).prog = .wait :: [] ∧ ({ w with resetLine := true } : State).resetLine = true) := by
  decide

theorem witness_FetchWordRunsTheCommand : (Instr.macUpdate 8).wf = true := by decide

/-- A host that reads, that writes CMD while idle, that writes DATA while busy, that polls. -/
theorem witness_DisciplinedHostIsNeverRefused :
    State.hostDisciplined { State.reset with prog := [.access ⟨0x3C, 32, 1, .read⟩] } ∧
    State.hostDisciplined { State.reset with prog := [.access ⟨0, 32, 1, .write 3⟩] } ∧
    State.hostDisciplined (latch 3 key8 { State.reset with prog := [.access ⟨0x20, 32, 1, .write 3⟩] }) ∧
    State.hostDisciplined (latch 3 key8 { State.reset with prog := [.wait] }) := by
  refine ⟨⟨by decide, rfl, ?_⟩, ⟨by decide, rfl, fun _ _ _ => rfl⟩, ⟨by decide, rfl, ?_⟩, rfl⟩
  · intro v h; cases h
  · intro v h
    have ht : Access.target ⟨0x20, 32, 1, .write 3⟩ = .ok (.data 0) := by decide
    intro h'
    cases h
    rw [ht] at h'
    cases h'

theorem witness_WaitEndsUnderEverySchedule :
    let s := latch 0x00000808 abcdefgh { p0 with prog := [.wait], sched := [.host, .host, .engine, .host] }
    s.prog = [.wait] ∧ s.resetLine = false := by
  exact ⟨rfl, rfl⟩

theorem witness_LoadKeySetsTheKeyOnce :
    State.reset.key = none ∧ p0.key ≠ none ∧ (0 : Len) ≠ 32 ∧ (33 : Len) ≠ 32 := by decide

theorem witness_LoadSboxRowLoadsExactlyPermutations_loads :
    (∀ e : Fin 16, (rowBytes (latch 0x00001002 row0Words State.reset).operands)[e] ≤ 15) ∧
    ∀ e1 e2 : Fin 16, e1 ≠ e2 → (rowBytes (latch 0x00001002 row0Words State.reset).operands)[e1] ≠
      (rowBytes (latch 0x00001002 row0Words State.reset).operands)[e2] := by decide

/-- A wrong length; entry 0 equal to 16; 15 twice (95_test_vectors.md 2.5). -/
theorem witness_LoadSboxRowLoadsExactlyPermutations_rejects :
    (15 : Len) ≠ 16 ∧
    (∃ e : Fin 16,
      (rowBytes (latch 0x1002 (data4 0x02090A10 0x0E00080D 0x0C010B06 0x03050F07) p0).operands)[e] > 15) ∧
    ∃ e1 e2 : Fin 16, e1 ≠ e2 ∧
      (rowBytes (latch 0x1002 (data4 0x02090A0F 0x0E00080D 0x0C010B06 0x03050F07) p0).operands)[e1] =
        (rowBytes (latch 0x1002 (data4 0x02090A0F 0x0E00080D 0x0C010B06 0x03050F07) p0).operands)[e2] := by decide

theorem witness_ExpandBuildsTheTables :
    (∀ r : Fin 8, loaded.sbox[r] = some rows[r]) ∧ ∃ r : Fin 8, State.reset.sbox[r] = none := by decide

theorem witness_LoadIvSetsTheStreamState : (7 : Len) ≠ 8 ∧ (9 : Len) ≠ 8 := by decide

/-- Configured states, as EcbWrites…, CtrInit…, Ctr…, CfbEnc…, CfbDec…, ZeroLength…, MacUpdate… ask for; LEN 1 and 8. -/
theorem witness_configured_commands :
    let s := p0iv ⟨0x01234567, 0x89ABCDEF⟩
    s.key = some key8 ∧ s.exp = some tables ∧ s.ivLoaded = true ∧ s.configured = true ∧ (1 : Len) ≤ 1 ∧ (1 : Len) ≤ 8 ∧
      (8 : Len) ≤ 8 ∧ (1 : Len) ≤ 8 := by
  exact ⟨rfl, rfl, rfl, rfl, by decide, by decide, by decide, by decide⟩

/-- LEN = 0 without an IV on a command that uses none. -/
theorem witness_ZeroLengthChangesOnlyErr :
    p0.configured = true ∧ Instr.macUpdate 0 ∈ [Instr.ecbEnc 0, .ecbDec 0, .macUpdate 0, .ctr 0, .cfbEnc 0, .cfbDec 0] ∧
      ((Instr.macUpdate 0).usesIv = true → p0.ivLoaded = true) ∧
      ((Instr.ctr 0).usesIv = true → (p0iv ⟨0, 0⟩).ivLoaded = true) := by
  exact ⟨rfl, by decide, by decide, by decide⟩

theorem witness_EcbDecUndoesEcbEnc :
    ∃ t, ∃ u : State, exec (.ecbEnc 8) (latch 0x00000808 abcdefgh p0) = .next t ∧ t.err = .ok ∧ u.key = p0.key ∧ u.exp = p0.exp ∧
      blockOf u.operands = t.result := by
  refine ⟨_, { p0 with data := data4 0x964D766E 0x186F40B1 0 0 }, rfl, rfl, rfl, rfl, by decide⟩

/-- The hypotheses of both stream statements: two states with the same configuration and IV and another RESULT, and LENs at
both ends. -/
theorem witness_streams :
    let s := p0iv ⟨0xBB9E8B90, 0x0BD3BD44⟩
    let u : State := { s with result := ⟨1, 2⟩, mac := ⟨3, 4⟩, sbox := State.reset.sbox }
    s.configured = true ∧ s.ivLoaded = true ∧ u.key = s.key ∧ u.exp = s.exp ∧ u.iv = s.iv ∧ u.ivLoaded = true ∧
      u.mac ≠ s.mac ∧
      ∀ m ∈ [((8 : Len), (⟨0x44434241, 0x48474645⟩ : Block)), (1, ⟨0x58, 0⟩), (7, ⟨0, 1⟩)], 1 ≤ m.1 ∧ m.1 ≤ 8 := by
  exact ⟨rfl, rfl, rfl, rfl, rfl, rfl, by decide, by decide⟩

theorem witness_PartialCfbBlockIvs :
    ∃ t v, exec (.cfbEnc 5) (latch 0x0000050C (data4 0x54535251 0x55 0 0) (p0iv ⟨0x9AB33729, 0xC8A4E7D9⟩)) = .next t ∧
      t.err = .ok ∧
      blockOf (latch 0x0000050D (data4 0xF75711A5 0x8B 0 0) (p0iv ⟨0x9AB33729, 0xC8A4E7D9⟩)).operands = t.result ∧
      exec (.cfbDec 5) (latch 0x0000050D (data4 0xF75711A5 0x8B 0 0) (p0iv ⟨0x9AB33729, 0xC8A4E7D9⟩)) = .next v ∧
      v.err = .ok ∧ (1 : Len) ≤ 5 ∧ (5 : Len) ≤ 7 := by
  exact ⟨_, _, rfl, rfl, by decide, rfl, rfl, by decide, by decide⟩

theorem witness_MacResetAndLoadWriteTheAccumulator : p0.operands[0] = 0 ∧ p0.operands[1] = 0 := by decide

theorem witness_MacDependsOnlyOnKeyTablesAndBlocks :
    let u : State := { p0 with data := key8, iv := ⟨1, 2⟩, sbox := State.reset.sbox }
    p0.configured = true ∧ u.key = p0.key ∧ u.exp = p0.exp ∧ u.mac = p0.mac := by
  exact ⟨rfl, rfl, rfl, rfl⟩

theorem witness_SavedContextIsRestored :
    let s : State := { p0iv ⟨5, 6⟩ with mac := ⟨5, 6⟩ }
    let u := latch 0x804 (data4 5 6 0 0) State.reset
    s.busy = false ∧ u.operands[0] = (s.readReg .iv0).1 ∧ u.operands[1] = (s.readReg .iv1).1 ∧
      u.operands[0] = (s.readReg .mac0).1 ∧ u.operands[1] = (s.readReg .mac1).1 := by decide

/-- A command in error, and a word that is no command. -/
theorem witness_ErrorsArePrecise :
    (∃ t, exec .expand State.reset = .next t ∧ t.err ≠ .ok) ∧
    ∃ t, engineTurn (latch 0x0000000B key8 p0) = .next t ∧ (latch 0x0000000B key8 p0).busy = true ∧ t.err ≠ .ok := by
  exact ⟨⟨_, rfl, by decide⟩, ⟨_, rfl, rfl, by decide⟩⟩

/-- LEN = 0 with every check passed, for the no-op clause. -/
theorem witness_FirstApplicableErrorIsReported :
    ∃ t, exec (.ctr 0) (p0iv ⟨1, 2⟩) = .next t ∧ t.err = .ok ∧
      Instr.ctr 0 ∈ [Instr.ecbEnc 0, .ecbDec 0, .macUpdate 0, .ctr 0, .cfbEnc 0, .cfbDec 0] := by
  exact ⟨_, rfl, rfl, by decide⟩

/-- Each missing piece of configuration in turn. -/
theorem witness_CtrInitEncryptsTheIv :
    State.reset.key = none ∧
    (({ State.reset with key := some key8 } : State).key ≠ none ∧
      ({ State.reset with key := some key8 } : State).exp = none) ∧
    p0.key ≠ none ∧ p0.exp.isSome = true ∧ p0.ivLoaded = false := by decide

theorem witness_UnconfiguredCipherCommandsReport :
    ((Instr.ctr 3).wf = true ∧ (Instr.ctr 3).usesCipher = true ∧
      ((Instr.ctr 3).needsWholeBlock = true → (Instr.ctr 3).len = 0 ∨ (Instr.ctr 3).len = 8)) ∧
    ((Instr.macUpdate 8).wf = true ∧ (Instr.macUpdate 8).usesCipher = true ∧
      ((Instr.macUpdate 8).needsWholeBlock = true → (Instr.macUpdate 8).len = 0 ∨ (Instr.macUpdate 8).len = 8)) ∧
    State.reset.key = none ∧
    (({ State.reset with key := some key8 } : State).key ≠ none ∧
      ({ State.reset with key := some key8 } : State).exp = none) ∧
    (p0.key ≠ none ∧ p0.exp.isSome = true ∧ p0.ivLoaded = false ∧ (Instr.ctr 3).usesIv = true) := by decide

/-- For each register, a command that changes it. -/
theorem witness_OnlyTheNamedCommandsWriteEachRegister :
    (∃ t, exec (.loadKey 32) (latch 0x2001 key8 State.reset) = .next t ∧ t.key ≠ State.reset.key) ∧
    (∃ t, exec (.loadSboxRow 0 16) (latch 0x1002 row0Words State.reset) = .next t ∧ t.sbox ≠ State.reset.sbox ∧
      t.expStale ≠ State.reset.expStale) ∧
    (∃ t, exec .expand loaded = .next t ∧ t.exp.isSome = true ∧ loaded.exp = none ∧ t.expStale ≠ loaded.expStale) ∧
    (∃ t, exec (.loadIv 8) (latch 0x804 abcdefgh p0) = .next t ∧ t.iv ≠ p0.iv ∧ t.ivLoaded ≠ p0.ivLoaded) ∧
    (∃ t, exec .macLoad (latch 0x12 abcdefgh p0) = .next t ∧ t.mac ≠ p0.mac) ∧
    ∃ t, exec (.ecbEnc 8) (latch 0x808 abcdefgh p0) = .next t ∧ t.result ≠ p0.result := by
  refine ⟨⟨_, rfl, by decide⟩, exists_next _ (fun t => t.sbox ≠ _ ∧ t.expStale ≠ _) (by decide) (by decide),
    ⟨_, rfl, rfl, rfl, by decide⟩, ⟨_, rfl, by decide⟩, ⟨_, rfl, by decide⟩, ⟨_, rfl, by decide⟩⟩

/-- An engine step that is no reset, from a state with everything loaded. -/
theorem witness_OnlyResetClearsTheConfiguration :
    let s := p0iv ⟨1, 2⟩
    ∃ t, step (latch 0x00000010 key8 s) = .next t ∧ (latch 0x00000010 key8 s).prog ≠ .assertReset :: t.prog ∧
      s.key = some key8 ∧ (∀ r : Fin 8, s.rowLoaded r = true) ∧ s.expValid = true ∧ s.ivLoaded = true := by
  exact ⟨_, rfl, by decide, rfl, by decide, rfl, rfl⟩

/-- An EXPAND in flight with EXP_STALE = 1, for the clause about EXP_STALE. -/
theorem witness_OnlyResetClearsTheConfiguration_stale :
    ∃ t, step (latch 0x00000003 key8 loaded) = .next t ∧ (latch 0x00000003 key8 loaded).prog ≠ .assertReset :: t.prog ∧
      (latch 0x00000003 key8 loaded).expStale = true ∧ t.expStale = false := by
  exact ⟨_, rfl, by decide, rfl, rfl⟩

/-- ERR and ERRS change at a completion. -/
theorem witness_ErrIsWrittenAtCompletionOnly :
    ∃ t, step (latch 0x00000003 key8 State.reset) = .next t ∧ t.err ≠ State.reset.err ∧ t.errs = true := by
  exact ⟨_, rfl, by decide, rfl⟩

/-- For each clause: ERRS cleared by a STATUS write, OVR cleared by one, ERRS clear before an error, OVR clear before a
dropped CMD write. -/
theorem witness_StickyFlagsAreClearedByTheHostOnly :
    (∃ t, step { State.reset with errs := true, prog := [.access ⟨4, 32, 1, .write 0x1000⟩] } = .next t ∧
      t.errs = false) ∧
    (∃ t, step { State.reset with ovr := true, prog := [.access ⟨4, 32, 1, .write 0x2000⟩] } = .next t ∧
      t.ovr = false) ∧
    (∃ t, step (latch 0x0000000B key8 State.reset) = .next t ∧ State.reset.errs = false ∧ t.errs = true) ∧
    ∃ t, step (latch 0 key8 { State.reset with prog := [.access ⟨0, 32, 1, .write 3⟩], sched := [.host] }) = .next t ∧
      t.ovr = true := by
  exact ⟨exists_next _ (fun t => t.errs = false) (by decide) (by decide),
    exists_next _ (fun t => t.ovr = false) (by decide) (by decide), ⟨_, rfl, rfl, rfl⟩,
    exists_next _ (fun t => t.ovr = true) (by decide) (by decide)⟩

/-- A configured state with an IV meets the invariant, and steps. -/
theorem witness_EveryStepKeepsTheInvariant :
    ∃ t, (latch 0x00000808 abcdefgh (p0iv ⟨1, 2⟩)).Inv ∧
      step (latch 0x00000808 abcdefgh (p0iv ⟨1, 2⟩)) = .next t := by
  refine ⟨_, ⟨?_, ?_, ?_, ?_, ?_, ?_, ?_⟩, rfl⟩
  · intro r row h
    have hp : ∀ r : Fin 8, rows[r].IsPerm := by decide
    have hr : (latch 0x00000808 abcdefgh (p0iv ⟨1, 2⟩)).sbox[r] = some rows[r] := by
      simp [latch, p0iv, p0]
    rw [hr] at h
    cases h
    exact hp r
  · intro e h
    cases h
    exact ⟨rows, by decide, rfl⟩
  · intro e h _
    cases h
    exact ⟨rows, (allRows_eq_some _ _).mpr (by decide), rfl⟩
  · intro _; decide
  · intro h; cases h
  · intro h; cases h
  · intro h; cases h

theorem witness_StatusWriteClearsTheStickyBits :
    (∃ t, exec .expand (({ State.reset with errs := true } : State).writeReg .status 0x1000) = .next t ∧ t.err ≠ .ok) ∧
      (latch 0 key8 State.reset).busy = true := by
  exact ⟨⟨_, rfl, by decide⟩, rfl⟩

/-- Legal accesses at both ends of the window, and an access illegal in each way. -/
theorem witness_OnlyLegalAccessesArePerformed :
    State.reset.resetLine = false ∧ Access.Legal ⟨0, 32, 1, .read⟩ ∧ Access.Legal ⟨0x3C, 32, 1, .write 0⟩ ∧
    ¬ Access.Legal ⟨0x40, 32, 1, .read⟩ ∧ ¬ Access.Legal ⟨-4, 32, 1, .read⟩ ∧ ¬ Access.Legal ⟨2, 32, 1, .read⟩ ∧
    ¬ Access.Legal ⟨0, 16, 1, .read⟩ ∧ ¬ Access.Legal ⟨0, 32, 2, .read⟩ := by
  decide

/-- An idle state out of reset (IdleRead…, WritesToReadOnly…, CmdWrite…), and a busy one (BusyRead…, CmdWrite…). -/
theorem witness_window_accesses :
    p0.pending = none ∧ p0.busy = false ∧ p0.resetLine = false ∧ (latch 8 key8 p0).busy = true ∧
      (latch 8 key8 p0).resetLine = false ∧ decode 0x0000000B = .error .reservedOpcode := by decide

theorem witness_CommandReadsTheSnapshotOnly :
    ∃ t, (latch 0x804 abcdefgh p0).pending = some ⟨0x804, abcdefgh⟩ ∧
      exec (.loadIv 8) (latch 0x804 abcdefgh p0) = .next t := by
  exact ⟨_, rfl, rfl⟩

theorem witness_HostAccessesLeaveTheEngineAlone :
    ∃ t, busAccess ⟨0, 32, 1, .write 3⟩ (latch 0x808 abcdefgh p0) = .next t ∧ (latch 0x808 abcdefgh p0).busy = true := by
  exact exists_next _ (fun _ => _) (by decide) rfl

theorem witness_StaleTablesAreUsedAsTheyAre :
    ∃ t, exec (.ecbEnc 8) (latch 0x808 abcdefgh p0) = .next t ∧ Instr.ecbEnc 8 ≠ .expand ∧
      ∀ row len, Instr.ecbEnc 8 ≠ .loadSboxRow row len := by
  exact ⟨_, rfl, by decide, by intro row len h; cases h⟩

/-- Two states with other keys and rows and the same flags. -/
theorem witness_KeyAndTablesCannotBeReadBack :
    let u : State := { p0 with key := some abcdefgh, sbox := tabulate 8 fun _ => some rows[0] }
    u = { p0 with key := u.key, sbox := u.sbox, exp := u.exp } ∧ u.key ≠ p0.key ∧ u.keyLoaded = p0.keyLoaded ∧
      u.expValid = p0.expValid ∧ ∀ r, u.rowLoaded r = p0.rowLoaded r := by
  exact ⟨rfl, by decide, rfl, rfl, by decide⟩

theorem witness_ResetAbandonsAndClears :
    ({ latch 3 key8 p0 with prog := [.assertReset, .releaseReset] } : State).prog = .assertReset :: [.releaseReset] := by
  rfl

theorem witness_ExpandedTablesAreBijections : ∀ r : Fin 8, rows[r].IsPerm := by decide

theorem witness_RoundFunctionIsAddSubstituteRotate : (0 : Nat) < 32 ∧ 31 < 32 := by decide

theorem witness_DecryptAndEncryptAreInverse :
    ∀ j : Fin 8, (⟨#v[5, 5, 5, 5, 5, 5, 5, 5], tables⟩ : Cipher).key[j] = 5 := by decide

theorem witness_TruncKeepsTheFirstBytes : (0 : Nat) ≤ 8 ∧ (8 : Nat) ≤ 8 ∧ (7 : Nat) < 8 := by decide

end Sys2Proof.Tests
end

section
namespace Sys2Proof

/-! ### Packing bytes into words (R11, R52) -/

theorem byteOf_getLsbD (w : Word) (n j : Nat) (hj : j < 8) : (byteOf w n).getLsbD j = w.getLsbD (8 * n + j) := by
  simp [byteOf, hj]

/-- A word is its four lanes (R52). -/
theorem word_ext_byteOf (x y : Word) (h : ∀ n : Fin 4, byteOf x n = byteOf y n) : x = y := by
  refine BitVec.eq_of_getLsbD_eq fun k hk => ?_
  have hlane := congrArg (BitVec.getLsbD · (k % 8)) (h ⟨k / 8, by omega⟩)
  simpa only [byteOf_getLsbD _ _ _ (Nat.mod_lt k (by omega : 0 < 8)), Nat.div_add_mod] using hlane

theorem byteOf_or (x y : Word) (n : Nat) : byteOf (x ||| y) n = byteOf x n ||| byteOf y n :=
  BitVec.extractLsb'_or

/-- A byte shifted to lane `m` fills that lane and leaves the other lanes zero. -/
theorem byteOf_shiftLeft_byte (b : Byte) (m n : Nat) (hn : n < 4) :
    byteOf (b.setWidth 32 <<< (8 * m)) n = if n = m then b else 0 := by
  refine BitVec.eq_of_getLsbD_eq fun j hj => ?_
  rw [byteOf_getLsbD _ _ _ hj, BitVec.getLsbD_shiftLeft, BitVec.getLsbD_setWidth]
  obtain hlt | rfl | hgt := Nat.lt_trichotomy n m
  · simp [hlt.ne, show 8 * n + j < 8 * m by omega]
  · simp [show 8 * n + j < 32 by omega, show j < 32 by omega]
  · simp [hgt.ne', b.getLsbD_of_ge (8 * n + j - 8 * m) (by omega)]

/-- Lane `n` of a packed word is the `n`-th byte (R11). -/
theorem byteOf_packLe (b0 b1 b2 b3 : Byte) (n : Fin 4) : byteOf (packLe b0 b1 b2 b3) n = #v[b0, b1, b2, b3][n] := by
  have h0 := byteOf_shiftLeft_byte b0 0 n n.isLt
  have h1 := byteOf_shiftLeft_byte b1 1 n n.isLt
  have h2 := byteOf_shiftLeft_byte b2 2 n n.isLt
  have h3 := byteOf_shiftLeft_byte b3 3 n n.isLt
  simp only [Nat.mul_zero, Nat.mul_one, Nat.reduceMul, BitVec.shiftLeft_zero] at h0 h1 h2 h3
  rw [packLe, byteOf_or, byteOf_or, byteOf_or, h0, h1, h2, h3]
  fin_cases n <;> simp

theorem bytesOf_packLe (b0 b1 b2 b3 : Byte) : bytesOf (packLe b0 b1 b2 b3) = [b0, b1, b2, b3] := by
  have hlane := byteOf_packLe b0 b1 b2 b3
  simpa [bytesOf] using And.intro (hlane 0) ⟨hlane 1, hlane 2, hlane 3⟩

theorem packLe_byteOf (w : Word) : packLe (byteOf w 0) (byteOf w 1) (byteOf w 2) (byteOf w 3) = w := by
  refine word_ext_byteOf _ _ fun n => ?_
  rw [byteOf_packLe]
  fin_cases n <;> rfl

/-- The bytes of a list of words pack back to those words, in order (R11). -/
theorem packBytes_flatMap_bytesOf (ws : List Word) : packBytes (ws.flatMap bytesOf) = ws := by
  induction ws with
  | nil => rfl
  | cons w ws ih => simp [bytesOf, packBytes, packLe_byteOf, ih]

/-- Settles O60: the two round trips on one word, and the packing of a list of words by induction on the list. -/
theorem packingIsLittleEndian : Obligations.PackingIsLittleEndian :=
  ⟨bytesOf_packLe, packLe_byteOf, packBytes_flatMap_bytesOf⟩

end Sys2Proof
end

section
namespace Sys2Proof.Machine

/-! ### The moves a step can be

`Move s t` says once what `step s = .next t` can be; the statements about every step split on it. -/

/-- The moves of the two agents from `s`, with some of the schedule (`q`) and of the program (`p`) used. -/
inductive Move (s : State) : State → Prop where
  | idle (q : List Agent) : Move s { s with sched := q }
  | illegal (q : List Agent) (l : Latched) (e : DecodeError) (hl : s.pending = some l) (hd : decode l.word = .error e) :
      Move s (State.raised .illegalCommand { s with sched := q })
  | command (q : List Agent) (l : Latched) (i : Instr) (t : State) (hl : s.pending = some l) (hd : decode l.word = .ok i)
      (he : Effect i { s with sched := q } t) : Move s t
  | read (q : List Agent) (p : List HostOp) (r : Reg) (hr : s.resetLine = false) :
      Move s (State.readLogged r { s with sched := q, prog := p })
  | write (q : List Agent) (p : List HostOp) (r : Reg) (v : Word) (hr : s.resetLine = false) :
      Move s (State.writeLogged r v { s with sched := q, prog := p })
  | assertReset (q : List Agent) (p : List HostOp) (hp : s.prog = .assertReset :: p) :
      Move s (State.assertReset { s with sched := q, prog := p })
  | releaseReset (q : List Agent) (p : List HostOp) : Move s { s with sched := q, prog := p, resetLine := false }

theorem engineTurn_move (q : List Agent) (s t : State) (h : engineTurn { s with sched := q } = .next t) : Move s t := by
  obtain ⟨-, rfl⟩ | ⟨l, hl, ⟨e, hd, rfl⟩ | ⟨i, hd, he⟩⟩ := engineTurn_cases _ _ h
  · exact .idle q
  · exact .illegal q l e hl hd
  · exact .command q l i t hl hd he

theorem hostTurn_move (q : List Agent) (s t : State) (h : hostTurn { s with sched := q } = .next t) : Move s t := by
  obtain ⟨-, rfl⟩ | ⟨a, p, -, ha⟩ | ⟨p, -, hr, ⟨-, rfl⟩ | ⟨-, rfl⟩⟩ | ⟨p, hp, rfl⟩ | ⟨p, -, rfl⟩ :=
    hostTurn_cases _ _ h
  · exact .idle q
  · obtain ⟨hr, r, -, ⟨-, rfl⟩ | ⟨v, -, rfl⟩⟩ := busAccess_cases _ _ _ ha
    · exact .read q p r hr
    · exact .write q p r v hr
  · exact .read q s.prog .status hr
  · exact .read q p .status hr
  · exact .assertReset q p hp
  · exact .releaseReset q p

theorem step_move (s t : State) (h : step s = .next t) : Move s t := by
  obtain ⟨q, hq | hq⟩ := step_next_cases _ _ h
  · exact engineTurn_move q s t hq
  · exact hostTurn_move q s t hq

/-! ### What a command writes, register by register (R22 to R29, R32)

Each lemma reads one register off the ten effects; every effect it does not name leaves the register as it is. -/

section
variable {i : Instr} {s t : State}

theorem effect_key_changed (h : Effect i s t) (hne : t.key ≠ s.key) :
    i = .loadKey 32 ∧ s.key = none ∧ t.key = some s.operands := by
  cases h with
  | key hi hk => exact ⟨hi, hk, rfl⟩
  | _ => exact absurd rfl hne

theorem effect_sbox_changed (h : Effect i s t) (hne : t.sbox ≠ s.sbox) :
    ∃ row, i = .loadSboxRow row 16 ∧ rowOk (rowBytes s.operands) = true ∧
      t.sbox = s.sbox.set row.toNat (some (rowOf (rowBytes s.operands))) row.isLt := by
  cases h with
  | row row hi hok => exact ⟨row, hi, hok, rfl⟩
  | _ => exact absurd rfl hne

theorem effect_exp_changed (h : Effect i s t) (hne : t.exp ≠ s.exp) :
    i = .expand ∧ ∃ m, allRows s.sbox = some m ∧ t.exp = some (expand m) := by
  cases h with
  | exp m hi hm => exact ⟨hi, m, hm, rfl⟩
  | _ => exact absurd rfl hne

/-- EXP_STALE is set by LOAD_SBOX_ROW and cleared by EXPAND, which leaves valid tables (R27, log 17). -/
theorem effect_expStale_changed (h : Effect i s t) (hne : t.expStale ≠ s.expStale) :
    (t.expStale = true ∧ ∃ row, i = .loadSboxRow row 16) ∨
      (t.expStale = false ∧ i = .expand ∧ t.err = .ok ∧ t.expValid = true) := by
  cases h with
  | row row hi _ => exact .inl ⟨rfl, row, hi⟩
  | exp m hi _ => exact .inr ⟨rfl, hi, rfl, rfl⟩
  | _ => exact absurd rfl hne

theorem effect_ivLoaded_changed (h : Effect i s t) (hne : t.ivLoaded ≠ s.ivLoaded) :
    i = .loadIv 8 ∧ t.ivLoaded = true := by
  cases h with
  | loadIv hi => exact ⟨hi, rfl⟩
  | _ => exact absurd rfl hne

theorem effect_iv_changed (h : Effect i s t) (hne : t.iv ≠ s.iv) :
    t.ivLoaded = true ∧ (i = .loadIv 8 ∨ i = .ctrInit ∨
      ∃ len, len ≠ 0 ∧ (i = .ctr len ∨ i = .cfbEnc len ∨ i = .cfbDec len)) := by
  cases h with
  | loadIv hi => exact ⟨rfl, .inl hi⟩
  | iv x hi hl => exact ⟨hl, .inr (.inl hi)⟩
  | stream x y len h0 _ hi hl => exact ⟨hl, .inr (.inr ⟨len, h0, hi⟩)⟩
  | _ => exact absurd rfl hne

theorem effect_mac_changed (h : Effect i s t) (hne : t.mac ≠ s.mac) :
    i = .macReset ∨ i = .macUpdate 8 ∨ i = .macLoad := by
  cases h with
  | mac x hi => exact hi
  | _ => exact absurd rfl hne

theorem effect_result_changed (h : Effect i s t) (hne : t.result ≠ s.result) :
    t.err = .ok ∧ ∃ len, len ≠ 0 ∧
      (i = .ecbEnc len ∨ i = .ecbDec len ∨ i = .ctr len ∨ i = .cfbEnc len ∨ i = .cfbDec len) := by
  cases h with
  | result x hi => exact ⟨rfl, 8, by decide, hi.imp_right .inl⟩
  | stream x y len h0 _ hi _ => exact ⟨rfl, len, h0, .inr (.inr hi)⟩
  | _ => exact absurd rfl hne

/-- A command ends in error, which sets ERRS, or completes, which leaves ERRS alone (R14). -/
theorem effect_errs (h : Effect i s t) : (t.err ≠ .ok ∧ t.errs = true) ∨ (t.err = .ok ∧ t.errs = s.errs) := by
  cases h with
  | error c hc => exact .inl ⟨hc, rfl⟩
  | _ => exact .inr ⟨rfl, rfl⟩

/-- No command unloads a row: the one LOAD_SBOX_ROW names gets a value, the others stay (R23, R27). -/
theorem effect_rowLoaded (h : Effect i s t) (r : Fin 8) (hr : s.rowLoaded r = true) : t.rowLoaded r = true := by
  by_cases hsb : t.sbox = s.sbox
  · rwa [State.rowLoaded, hsb]
  obtain ⟨row, -, -, e⟩ := effect_sbox_changed h hsb
  simp only [State.rowLoaded, e, Fin.getElem_fin, Vector.getElem_set] at hr ⊢
  split
  · rfl
  · exact hr

theorem effect_expValid (h : Effect i s t) (hv : s.expValid = true) : t.expValid = true := by
  by_cases he : t.exp = s.exp
  · rwa [State.expValid, he]
  obtain ⟨-, m, -, e⟩ := effect_exp_changed h he
  simp [State.expValid, e]

end

/-- Settles O35, each register by its own lemma about the effects. -/
theorem onlyTheNamedCommandsWriteEachRegister : Obligations.OnlyTheNamedCommandsWriteEachRegister := by
  intro i s t h
  have he := exec_effect i s t h
  obtain ⟨hdata, hovr, hline, -, -, -, -⟩ := effect_frame i s t he
  refine ⟨effect_key_changed he, fun hne => ?_, fun hne => (effect_exp_changed he hne).1, fun hne => ?_,
    fun hne => (effect_ivLoaded_changed he hne).1, fun hne => (effect_iv_changed he hne).2, effect_mac_changed he,
    effect_result_changed he, hdata, hovr, hline⟩
  · obtain ⟨row, hi, -, e⟩ := effect_sbox_changed he hne
    refine ⟨row, hi, fun r hr => ?_⟩
    simp only [e, Fin.getElem_fin, Vector.getElem_set_ne _ _ (Ne.symm hr)]
  · obtain ⟨-, hrow⟩ | ⟨-, hexp, -, -⟩ := effect_expStale_changed he hne
    · exact .inr hrow
    · exact .inl hexp

/-! ### Moves that write no configuration register -/

/-- The key, the tables, the stream state and their flags are the same in `t` as in `s` (R22 to R25, R27). -/
structure State.SameConfig (s t : State) : Prop where
  key : t.key = s.key
  sbox : t.sbox = s.sbox
  exp : t.exp = s.exp
  expStale : t.expStale = s.expStale
  iv : t.iv = s.iv
  ivLoaded : t.ivLoaded = s.ivLoaded

theorem readLogged_sameConfig (q : List Agent) (p : List HostOp) (r : Reg) (s : State) :
    s.SameConfig (State.readLogged r { s with sched := q, prog := p }) := by
  constructor <;> simp

theorem writeLogged_sameConfig (q : List Agent) (p : List HostOp) (r : Reg) (v : Word) (s : State) :
    s.SameConfig (State.writeLogged r v { s with sched := q, prog := p }) := by
  constructor <;> simp

/-- A step asserts reset, completes a legal command, or leaves the configuration alone. -/
theorem step_config_cases (s t : State) (h : step s = .next t) :
    s.prog = .assertReset :: t.prog ∨
      (∃ q l i, s.pending = some l ∧ decode l.word = .ok i ∧ Effect i { s with sched := q } t) ∨ s.SameConfig t := by
  cases step_move s t h with
  | assertReset q p hp => exact .inl hp
  | command q l i t hl hd he => exact .inr (.inl ⟨q, l, i, hl, hd, he⟩)
  | read q p r => exact .inr (.inr (readLogged_sameConfig q p r s))
  | write q p r v => exact .inr (.inr (writeLogged_sameConfig q p r v s))
  | idle | illegal | releaseReset => exact .inr (.inr ⟨rfl, rfl, rfl, rfl, rfl, rfl⟩)

/-- Settles O36: of the steps that are no assertion of reset only a legal command can write the configuration, and no
command's effect clears it. -/
theorem onlyResetClearsTheConfiguration : Obligations.OnlyResetClearsTheConfiguration := by
  intro s t h hreset
  obtain hp | ⟨q, l, i, hl, hd, he⟩ | hsame := step_config_cases s t h
  · exact absurd hp hreset
  · refine ⟨fun k hk => ?_, fun r hr => effect_rowLoaded he r hr, fun hv => effect_expValid he hv, fun hiv => ?_,
      fun hs ht => ?_⟩
    · by_contra hne
      obtain ⟨-, hnone, -⟩ := effect_key_changed he (by rwa [← hk] at hne)
      exact absurd (hk.symm.trans hnone) (by simp)
    · by_contra hne
      exact hne (effect_ivLoaded_changed he (by rwa [← hiv] at hne)).2
    · obtain ⟨htrue, -⟩ | ⟨-, rfl, hok, hvalid⟩ := effect_expStale_changed he (by simp [hs, ht])
      · simp [ht] at htrue
      · exact ⟨⟨l, hl, hd⟩, effect_pending _ _ _ he, hok, hvalid⟩
  · refine ⟨fun k hk => hsame.key.trans hk, fun r hr => ?_, fun hv => ?_, fun hiv => hsame.ivLoaded.trans hiv,
      fun hs ht => ?_⟩
    · rwa [State.rowLoaded, hsame.sbox]
    · rwa [State.expValid, hsame.exp]
    · simp [hsame.expStale, hs] at ht

/-! ### The invariant (R23 to R27, R200) -/

@[simp] theorem reset_sbox (r : Nat) (hr : r < 8) : State.reset.sbox[r] = none := by
  revert r; decide

/-- The machine in reset, whatever the model's own fields hold (R41, R200). -/
theorem assertReset_inv (s : State) : s.assertReset.Inv where
  rowsPerm r row h := by simp at h
  expOfPerms e h := by cases h
  expFresh e h := by cases h
  rowsStayLoaded h := by cases h
  staleSinceReset _ _ r := by simp [State.rowLoaded]
  ivUnread _ := rfl
  heldInReset _ := rfl

/-- The six clauses about the configuration pass to a state with the same configuration. -/
theorem inv_of_sameConfig {s t : State} (hs : s.Inv) (h : s.SameConfig t)
    (hheld : t.resetLine = true →
      t = { State.reset with resetLine := true, prog := t.prog, sched := t.sched, draws := t.draws, log := t.log }) :
    t.Inv where
  rowsPerm := by rw [h.sbox]; exact hs.rowsPerm
  expOfPerms := by rw [h.exp]; exact hs.expOfPerms
  expFresh := by rw [h.exp, h.expStale, h.sbox]; exact hs.expFresh
  rowsStayLoaded := by simp only [State.expValid, State.rowLoaded, h.exp, h.sbox]; exact hs.rowsStayLoaded
  staleSinceReset := by
    simp only [State.expValid, State.rowLoaded, h.exp, h.sbox, h.expStale]; exact hs.staleSinceReset
  ivUnread := by rw [h.ivLoaded, h.iv]; exact hs.ivUnread
  heldInReset := hheld

/-- The invariant does not speak of the schedule. -/
theorem inv_sched {s : State} (hs : s.Inv) (q : List Agent) : ({ s with sched := q } : State).Inv :=
  inv_of_sameConfig hs ⟨rfl, rfl, rfl, rfl, rfl, rfl⟩
    fun hr => congrArg (fun u : State => { u with sched := q }) (hs.heldInReset hr)

/-- No command is in flight while reset is asserted (R200). -/
theorem resetLine_of_inFlight {s : State} (hs : s.Inv) {l : Latched} (hl : s.pending = some l) : s.resetLine = false := by
  by_contra hr
  have hheld := congrArg State.pending (hs.heldInReset (by simpa using hr))
  exact absurd (hl.symm.trans hheld) (by simp [State.reset])

section
variable {i : Instr} {s t : State}

theorem effect_rowsPerm (hs : s.Inv) (h : Effect i s t) (r : Fin 8) (row : SboxRow) (hr : t.sbox[r] = some row) :
    row.IsPerm := by
  by_cases hsb : t.sbox = s.sbox
  · exact hs.rowsPerm r row (hsb ▸ hr)
  obtain ⟨n, -, hok, e⟩ := effect_sbox_changed h hsb
  simp only [e, Fin.getElem_fin, Vector.getElem_set] at hr
  split at hr
  · cases hr; exact rowOk_isPerm _ hok
  · exact hs.rowsPerm r row hr

theorem effect_expOfPerms (hs : s.Inv) (h : Effect i s t) (e : ExpTables) (he : t.exp = some e) :
    ∃ m : Vector SboxRow 8, (∀ r : Fin 8, m[r].IsPerm) ∧ e = expand m := by
  by_cases hex : t.exp = s.exp
  · exact hs.expOfPerms e (hex ▸ he)
  obtain ⟨-, m, hm, hem⟩ := effect_exp_changed h hex
  exact ⟨m, fun r => hs.rowsPerm r _ ((allRows_eq_some _ _).1 hm r), Option.some.inj (he.symm.trans hem)⟩

/-- Tables are fresh after EXPAND, and stale after a row is loaded; else neither they nor the rows changed. -/
theorem effect_expFresh (hs : s.Inv) (h : Effect i s t) (e : ExpTables) (he : t.exp = some e)
    (hst : t.expStale = false) : ∃ m, allRows t.sbox = some m ∧ e = expand m := by
  cases h with
  | row => cases hst
  | exp m hi hm => cases he; exact ⟨m, hm, rfl⟩
  | _ => exact hs.expFresh e he hst

theorem effect_rowsStayLoaded (hs : s.Inv) (h : Effect i s t) (hv : t.expValid = true) (r : Fin 8) :
    t.rowLoaded r = true := by
  by_cases hex : t.exp = s.exp
  · exact effect_rowLoaded h r (hs.rowsStayLoaded (by rwa [State.expValid, ← hex]) r)
  obtain ⟨-, m, hm, -⟩ := effect_exp_changed h hex
  exact effect_rowLoaded h r (by simp [State.rowLoaded, (allRows_eq_some _ _).1 hm r])

theorem effect_staleSinceReset (hs : s.Inv) (h : Effect i s t) (hv : t.expValid = false) (hst : t.expStale = false)
    (r : Fin 8) : t.rowLoaded r = false := by
  cases h with
  | row => cases hst
  | exp => cases hv
  | _ => exact hs.staleSinceReset hv hst r

theorem effect_ivUnread (hs : s.Inv) (h : Effect i s t) (hl : t.ivLoaded = false) : t.iv = ⟨0, 0⟩ := by
  by_cases hiv : t.iv = s.iv
  · by_cases hld : t.ivLoaded = s.ivLoaded
    · exact hiv.trans (hs.ivUnread (hld ▸ hl))
    · simp [(effect_ivLoaded_changed h hld).2] at hl
  · simp [(effect_iv_changed h hiv).1] at hl

theorem effect_inv (hs : s.Inv) {l : Latched} (hl : s.pending = some l) (h : Effect i s t) : t.Inv where
  rowsPerm := effect_rowsPerm hs h
  expOfPerms := effect_expOfPerms hs h
  expFresh := effect_expFresh hs h
  rowsStayLoaded := effect_rowsStayLoaded hs h
  staleSinceReset := effect_staleSinceReset hs h
  ivUnread := effect_ivUnread hs h
  heldInReset hr := by
    obtain ⟨-, -, hline, -, -, -, -⟩ := effect_frame i s t h
    simp [hline, resetLine_of_inFlight hs hl] at hr

end

theorem move_inv {s t : State} (hs : s.Inv) (h : Move s t) : t.Inv := by
  have running {u : State} (hr : s.resetLine = false) (hu : u.resetLine = s.resetLine) (hsame : s.SameConfig u) : u.Inv :=
    inv_of_sameConfig hs hsame fun hline => by simp [hu, hr] at hline
  cases h with
  | idle q => exact inv_sched hs q
  | illegal q l e hl => exact running (resetLine_of_inFlight hs hl) rfl ⟨rfl, rfl, rfl, rfl, rfl, rfl⟩
  | command q l i t hl hd he => exact effect_inv (inv_sched hs q) hl he
  | read q p r hr => exact running hr (by simp) (readLogged_sameConfig q p r s)
  | write q p r v hr => exact running hr (by simp) (writeLogged_sameConfig q p r v s)
  | assertReset q p => exact assertReset_inv _
  | releaseReset q p => exact inv_of_sameConfig hs ⟨rfl, rfl, rfl, rfl, rfl, rfl⟩ fun hline => by cases hline

/-- Settles O40, move by move: a command's effects keep each clause, and no other move but reset writes the
configuration. -/
theorem everyStepKeepsTheInvariant : Obligations.EveryStepKeepsTheInvariant :=
  fun s t hs h => move_inv hs (step_move s t h)

/-- Settles O39: the clauses but the last are those of the machine held in reset; the reset line is released. -/
theorem invariantHoldsAtReset : Obligations.InvariantHoldsAtReset :=
  inv_of_sameConfig (assertReset_inv State.reset) ⟨rfl, rfl, rfl, rfl, rfl, rfl⟩ fun hline => by cases hline

/-! ### STATUS.ERR and the sticky bits (R32, R35, R36) -/

theorem errCode_le_nine (c : ErrCode) : c.code ≤ 9 := by
  cases c <;> decide

/-- Settles O37: of the moves only a completion and an assertion of reset write ERR. -/
theorem errIsWrittenAtCompletionOnly : Obligations.ErrIsWrittenAtCompletionOnly := by
  intro s t h
  refine ⟨fun hne => ?_, errCode_le_nine t.err⟩
  cases step_move s t h with
  | illegal q l e hl => exact .inl ⟨by simp [State.busy, hl], rfl⟩
  | command q l i t hl hd he => exact .inl ⟨by simp [State.busy, hl], by simp [State.busy, effect_pending _ _ _ he]⟩
  | assertReset q p hp => exact .inr hp
  | read | write => simp at hne
  | idle | releaseReset => exact absurd rfl hne

@[simp] theorem readLogged_busy (r : Reg) (s : State) : (s.readLogged r).busy = s.busy := by
  simp [State.busy]

/-- A write leaves a command in flight, and one to CMD leaves one in any case (R56). -/
@[simp] theorem writeLogged_busy (r : Reg) (v : Word) (s : State) :
    (s.writeLogged r v).busy = (s.busy || decide (r = .cmd)) := by
  cases r
  case cmd => cases hp : s.pending <;> simp [State.writeLogged, State.writeReg, State.writeCmd, State.busy, hp]
  all_goals simp [State.writeLogged, State.writeReg, State.busy]

@[simp] theorem writeLogged_errs (r : Reg) (v : Word) (s : State) :
    (s.writeLogged r v).errs = (s.errs && !(decide (r = .status) && v.getLsbD 12)) := by
  cases r <;> simp [State.writeLogged, State.writeReg]

@[simp] theorem writeLogged_ovr (r : Reg) (v : Word) (s : State) :
    (s.writeLogged r v).ovr = (s.ovr && !(decide (r = .status) && v.getLsbD 13) || decide (r = .cmd) && s.busy) := by
  cases r
  case cmd => cases hp : s.pending <;> simp [State.writeLogged, State.writeReg, State.writeCmd, State.busy, hp]
  all_goals simp [State.writeLogged, State.writeReg]

/-- Short of reset, what clears ERRS is a write to STATUS with bit 12 set (R35). -/
theorem step_errs_cleared (s t : State) (h : step s = .next t) (hs : s.errs = true) (ht : t.errs = false) :
    (∃ w, t.log = .wrote .status w :: s.log ∧ w.getLsbD 12 = true) ∨ s.prog = .assertReset :: t.prog := by
  cases step_move s t h with
  | write q p r v =>
    obtain ⟨rfl, hv⟩ : r = .status ∧ v.getLsbD 12 = true := by simpa [hs] using ht
    exact .inl ⟨v, by simp, hv⟩
  | assertReset q p hp => exact .inr hp
  | command q l i t hl hd he =>
    obtain ⟨-, e⟩ | ⟨-, e⟩ := effect_errs he <;> simp [e, hs] at ht
  | read => simp [hs] at ht
  | idle | illegal | releaseReset => simp [State.raised, hs] at ht

/-- Short of reset, what clears OVR is a write to STATUS with bit 13 set (R36). -/
theorem step_ovr_cleared (s t : State) (h : step s = .next t) (hs : s.ovr = true) (ht : t.ovr = false) :
    (∃ w, t.log = .wrote .status w :: s.log ∧ w.getLsbD 13 = true) ∨ s.prog = .assertReset :: t.prog := by
  cases step_move s t h with
  | write q p r v =>
    obtain ⟨⟨rfl, hv⟩, -⟩ : (r = .status ∧ v.getLsbD 13 = true) ∧ _ := by simpa [hs] using ht
    exact .inl ⟨v, by simp, hv⟩
  | assertReset q p hp => exact .inr hp
  | command q l i t hl hd he =>
    obtain ⟨-, hovr, -, -, -, -, -⟩ := effect_frame _ _ _ he
    simp [hovr, hs] at ht
  | read => simp [hs] at ht
  | idle | illegal | releaseReset => simp [State.raised, hs] at ht

/-- ERRS is set by a completion in error (R35). -/
theorem step_errs_set (s t : State) (h : step s = .next t) (hs : s.errs = false) :
    t.errs = true ↔ t.err ≠ .ok ∧ s.busy = true ∧ t.busy = false := by
  have quiet {u : State} (hu : u.errs = false) (hb : s.busy = true → u.busy = true) :
      u.errs = true ↔ u.err ≠ .ok ∧ s.busy = true ∧ u.busy = false := by
    simp only [hu, Bool.false_eq_true, false_iff]
    rintro ⟨-, hsb, hub⟩
    simp [hb hsb] at hub
  cases step_move s t h with
  | illegal q l e hl => simp [State.raised, State.busy, hl]
  | command q l i t hl hd he =>
    have hbusy : s.busy = true ∧ t.busy = false := by simp [State.busy, hl, effect_pending _ _ _ he]
    obtain ⟨herr, e⟩ | ⟨herr, e⟩ := effect_errs he <;> simp [herr, e, hs, hbusy]
  | assertReset q p hp => simp [State.reset]
  | read q p r => exact quiet (by simp [hs]) fun hb => (readLogged_busy _ _).trans hb
  | write q p r v => exact quiet (by simp [hs]) fun hb => by rw [writeLogged_busy]; exact Bool.or_inl hb
  | idle | releaseReset => exact quiet hs id

/-- OVR is set by a write to CMD while BUSY = 1 (R36). -/
theorem step_ovr_set (s t : State) (h : step s = .next t) (hs : s.ovr = false) :
    t.ovr = true ↔ s.busy = true ∧ ∃ w, t.log = .wrote .cmd w :: s.log := by
  cases step_move s t h with
  | write q p r v => simp [hs, State.busy, and_comm]
  | command q l i t hl hd he =>
    obtain ⟨-, hovr, -, -, -, -, hlog⟩ := effect_frame _ _ _ he
    simp [hovr, hlog, hs]
  | read => simp [hs]
  | assertReset => simp [State.reset]
  | idle | illegal | releaseReset => simp [State.raised, hs]

/-- Settles O38, a lemma over every move for each clause. -/
theorem stickyFlagsAreClearedByTheHostOnly : Obligations.StickyFlagsAreClearedByTheHostOnly :=
  ⟨step_errs_cleared, step_ovr_cleared, step_errs_set, step_ovr_set⟩

/-! ### The STATUS word (R31, R37) -/

theorem flagBit_getLsbD (b : Bool) (n k : Nat) (hk : k < 32) : (flagBit b n).getLsbD k = (decide (k = n) && b) := by
  simp only [flagBit, BitVec.getLsbD_shiftLeft, BitVec.getLsbD_setWidth, BitVec.getLsbD_ofBool]
  obtain hlt | rfl | hgt := Nat.lt_trichotomy k n
  · simp [hlt, hlt.ne]
  · simp [hk]
  · simp [hgt.ne', show k - n ≠ 0 by omega]

theorem rowLoadedBits_getLsbD (s : State) (k : Nat) (hk : k < 32) :
    s.rowLoadedBits.getLsbD k =
      (decide (k = 16) && s.rowLoaded 0 || decide (k = 17) && s.rowLoaded 1 || decide (k = 18) && s.rowLoaded 2 ||
        decide (k = 19) && s.rowLoaded 3 || decide (k = 20) && s.rowLoaded 4 || decide (k = 21) && s.rowLoaded 5 ||
        decide (k = 22) && s.rowLoaded 6 || decide (k = 23) && s.rowLoaded 7) := by
  simp only [State.rowLoadedBits, BitVec.getLsbD_or, flagBit_getLsbD _ _ _ hk]

/-- Every bit of STATUS: ERR from bit 4 on, ROW_LOADED from bit 16 on, and one bit for each other field (R31). -/
theorem statusWord_getLsbD (s : State) (k : Nat) (hk : k < 32) :
    s.statusWord.getLsbD k =
      (decide (k = 0) && s.busy || !decide (k < 4) && s.err.code.getLsbD (k - 4) || decide (k = 8) && s.keyLoaded ||
        decide (k = 9) && s.expValid || decide (k = 10) && s.expStale || decide (k = 11) && s.ivLoaded ||
        decide (k = 12) && s.errs || decide (k = 13) && s.ovr || s.rowLoadedBits.getLsbD k) := by
  simp only [State.statusWord, BitVec.getLsbD_or, flagBit_getLsbD _ _ _ hk, BitVec.getLsbD_shiftLeft,
    BitVec.getLsbD_setWidth, hk, show k - 4 < 32 by omega, decide_true, Bool.true_and]

/-- Settles O41: each field reads its bits off `statusWord_getLsbD`, ROW_LOADED and the many-bit fields bit by bit. -/
theorem statusWordFields : Obligations.StatusWordFields := by
  intro s
  refine ⟨?busy, ?rsv1, ?err, ?keyLoaded, ?expValid, ?expStale, ?ivLoaded, ?errs, ?ovr, ?rsv14, fun r => ?rowLoaded,
    ?rsv24⟩
  case rowLoaded =>
    rw [statusWord_getLsbD s _ (by omega), rowLoadedBits_getLsbD s _ (by omega)]
    fin_cases r <;> simp
  case rsv1 | err | rsv14 | rsv24 =>
    refine BitVec.eq_of_getLsbD_eq fun j hj => ?_
    rw [BitVec.getLsbD_extractLsb', statusWord_getLsbD s _ (by omega), rowLoadedBits_getLsbD s _ (by omega)]
    interval_cases j <;> simp
  all_goals
    rw [statusWord_getLsbD s _ (by decide), rowLoadedBits_getLsbD s _ (by decide)]
    simp

/-! ### What the host can read of KEY, SBOX and EXP (R22 to R24, R60, R196) -/

theorem readWhenIdle_value (v : Word) (s : State) :
    (s.readWhenIdle v).1 = if s.busy then Config.freeWord s.draws else v := by
  unfold State.readWhenIdle
  split <;> rfl

section
variable {s : State} {k : Option Words8} {m : Vector (Option SboxRow) 8} {e : Option ExpTables}
  (hk : k.isSome = s.keyLoaded) (he : e.isSome = s.expValid) (hm : ∀ r : Fin 8, m[r].isSome = s.rowLoaded r)
include hk he hm

/-- STATUS tells of KEY, SBOX and EXP only whether they hold a value (R43). -/
theorem statusWord_of_flags : State.statusWord { s with key := k, sbox := m, exp := e } = s.statusWord := by
  simp only [State.statusWord, State.rowLoadedBits, State.rowLoaded, hm, State.keyLoaded, State.expValid, hk, he,
    State.busy]

/-- STATUS is the only register of the window that looks at KEY, SBOX or EXP. -/
theorem readReg_of_flags (r : Reg) :
    (State.readReg r { s with key := k, sbox := m, exp := e }).1 = (s.readReg r).1 := by
  cases r with
  | status => exact statusWord_of_flags hk he hm
  | cmd | data => rfl
  | _ => simp only [State.readReg, readWhenIdle_value]; rfl

end

/-- Whether an access is refused depends on the state through the reset line only (R53, R200). -/
theorem busAccess_refused {a : Access} {s u : State} {why : Refusal} (h : busAccess a s = .refused why)
    (hr : u.resetLine = s.resetLine) : busAccess a u = .refused why := by
  unfold busAccess at h ⊢
  rw [hr]
  split_ifs at h ⊢
  · exact h
  · cases ht : a.target with
    | error e => rwa [ht] at h
    | ok r => cases ho : a.op <;> simp [ht, ho] at h

theorem busAccess_read {a : Access} {s : State} {r : Reg} (hr : s.resetLine = false) (ht : a.target = .ok r)
    (ho : a.op = .read) : busAccess a s = .next (s.readLogged r) := by
  simp [busAccess, hr, ht, ho]

theorem busAccess_write {a : Access} {s : State} {r : Reg} {v : Word} (hr : s.resetLine = false) (ht : a.target = .ok r)
    (ho : a.op = .write v) : busAccess a s = .next (s.writeLogged r v) := by
  simp [busAccess, hr, ht, ho]

/-- Settles O51: an access reaches the same register in both states, and what it reads there is the same. -/
theorem keyAndTablesCannotBeReadBack : Obligations.KeyAndTablesCannotBeReadBack := by
  intro a s u hu hk he hm
  refine ⟨fun t h => ?_, fun why h => busAccess_refused h (by rw [hu])⟩
  obtain ⟨hr, r, ht, ⟨ho, rfl⟩ | ⟨v, ho, rfl⟩⟩ := busAccess_cases a s t h
  · refine ⟨_, busAccess_read (by rw [hu]; exact hr) ht ho, ?_⟩
    have hlog : u.log = s.log := by rw [hu]
    have hval := readReg_of_flags hk he hm r
    rw [← hu] at hval
    simp [hlog, hval]
  · refine ⟨_, busAccess_write (by rw [hu]; exact hr) ht ho, ?_⟩
    simp [show u.log = s.log by rw [hu]]

/-! ### A saved context (R33, R34) -/

theorem blockOf_eq {d : Words8} {x : Block} (h0 : d[0] = x.w0) (h1 : d[1] = x.w1) : blockOf d = x := by
  rw [blockOf, h0, h1]

/-- Settles O31: an idle read gives the word of the register, and both commands write the operand block. -/
theorem savedContextIsRestored : Obligations.SavedContextIsRestored := by
  intro s u hidle
  simp only [State.readReg, State.readWhenIdle_idle _ _ hidle]
  exact ⟨fun h0 h1 => ⟨_, rfl, rfl, blockOf_eq h0 h1, rfl⟩, fun h0 h1 => ⟨_, rfl, rfl, blockOf_eq h0 h1⟩⟩

/-! ### The expanded tables (R100, R101) -/

/-- A byte made of two nibbles determines both (R100). -/
theorem nibbles_inj {x y x' y' : BitVec 4}
    (h : (x.setWidth 8 <<< 4) ||| y.setWidth 8 = (x'.setWidth 8 <<< 4) ||| y'.setWidth 8) : x = x' ∧ y = y' := by
  constructor
  · refine BitVec.eq_of_getLsbD_eq fun k hk => ?_
    have hbit := congrArg (BitVec.getLsbD · (k + 4)) h
    simpa [hk, BitVec.getLsbD_of_ge, show k + 4 < 8 by omega] using hbit
  · refine BitVec.eq_of_getLsbD_eq fun k hk => ?_
    have hbit := congrArg (BitVec.getLsbD · k) h
    simpa [hk, show k < 8 by omega] using hbit

theorem SboxRow.IsPerm.entry_inj {r : SboxRow} (h : r.IsPerm) {a b : Nat} (ha : a < 16) (hb : b < 16)
    (he : r[a] = r[b]) : a = b := by
  obtain ⟨hnodup, -⟩ := h
  exact (hnodup.getElem_inj_iff (hi := by simpa) (hj := by simpa)).1 (by simpa using he)

/-- Settles O54: an entry's two nibbles are row entries at the index's two nibbles, so an entry determines its index; a
one-to-one map between two sets of 256 is onto. -/
theorem expandedTablesAreBijections : Obligations.ExpandedTablesAreBijections := by
  intro m hm t
  have inj : Function.Injective fun i : Fin 256 => (expand m)[t][i] := by
    intro i j hij
    have hentry : expandEntry m t i = expandEntry m t j := by simpa [expand] using hij
    obtain ⟨hhi, hlo⟩ := nibbles_inj hentry
    have hdiv : i.val / 16 = j.val / 16 := (hm ⟨2 * t.val + 1, by omega⟩).entry_inj (by omega) (by omega) hhi
    have hmod : i.val % 16 = j.val % 16 := (hm ⟨2 * t.val, by omega⟩).entry_inj (by omega) (by omega) hlo
    omega
  exact ⟨inj, (Finite.injective_iff_surjective_of_equiv BitVec.equivFin.toEquiv.symm).1 inj⟩

/-! ### Reset (R41, R200) -/

/-- Settles O52: the move is `assertReset`, and an access looks at the reset line first. -/
theorem resetAbandonsAndClears : Obligations.ResetAbandonsAndClears := by
  intro s rest hp
  exact ⟨_, by rw [hostTurn, hp]; rfl, rfl, fun a => by rw [busAccess, if_pos rfl]; rfl⟩

/-- Settles O53, by evaluation of the reset state. -/
theorem resetValues : Obligations.ResetValues := by
  unfold Obligations.ResetValues
  decide

end Sys2Proof.Machine
end

section
namespace Sys2Proof.Machine

/-! ### Accesses to the register window (R51 to R60) -/

/-- The reverse of `target_offset`: an access that reaches a register is legal and names its offset (R51, R53). -/
theorem target_cases (a : Access) :
    (a.Legal ∧ ∃ r : Reg, a.off = (r.offset : Int) ∧ a.target = .ok r) ∨
      (¬ a.Legal ∧ ∃ why, a.target = .error why) := by
  obtain ⟨off, bits, beats, op⟩ := a
  by_cases hlegal : Access.Legal ⟨off, bits, beats, op⟩
  · obtain ⟨rfl, rfl, h0, h40, h4⟩ := hlegal
    dsimp only at h0 h40 h4
    have hoff : off = ((4 * (off.toNat / 4) : Nat) : Int) := by omega
    have ht := target_word ⟨off.toNat / 4, by omega⟩ op
    rw [← hoff] at ht
    exact .inl ⟨⟨rfl, rfl, h0, h40, h4⟩, _, by rw [Reg.ofWord_offset]; exact hoff, ht⟩
  · refine .inr ⟨hlegal, ?_⟩
    unfold Access.target
    split_ifs with hbits hbeats hwin h4
    · exact ⟨_, rfl⟩
    · exact ⟨_, rfl⟩
    · exact absurd ⟨not_not.1 hbits, not_not.1 hbeats, hwin.1, hwin.2, h4⟩ hlegal
    · exact ⟨_, rfl⟩
    · exact ⟨_, rfl⟩

theorem Reg.offset_inj {r q : Reg} (h : r.offset = q.offset) : r = q := by
  have hr := target_offset r .read
  rw [h, target_offset q .read] at hr
  exact (Except.ok.inj hr).symm

theorem busAccess_error {a : Access} {s : State} {why : AccessProblem} (hr : s.resetLine = false)
    (ht : a.target = .error why) : busAccess a s = refuseAccess why := by
  simp [busAccess, hr, ht]

/-- With reset released an access that reaches a register is performed (R53). -/
theorem busAccess_next {a : Access} {s : State} {r : Reg} (hr : s.resetLine = false) (ht : a.target = .ok r) :
    ∃ t, busAccess a s = .next t := by
  cases ho : a.op with
  | read => exact ⟨_, busAccess_read hr ht ho⟩
  | write v => exact ⟨_, busAccess_write hr ht ho⟩

/-- Settles O43: the target of an access is a register exactly when the access is legal, and that register's offset is the
one named; a read at a register's offset reaches it, so offsets are distinct. -/
theorem onlyLegalAccessesArePerformed : Obligations.OnlyLegalAccessesArePerformed := by
  refine ⟨fun r q => Reg.offset_inj, fun a s hr => ?_⟩
  obtain ⟨hlegal, r, hoff, ht⟩ | ⟨hillegal, why, ht⟩ := target_cases a
  · obtain ⟨t, hnext⟩ := busAccess_next hr ht
    exact ⟨fun _ => ⟨r, t, hoff, ht, hnext⟩, absurd hlegal⟩
  · exact ⟨fun hlegal => absurd hlegal hillegal, fun _ => ⟨why, busAccess_error hr ht⟩⟩

theorem busAccess_read_offset {s : State} (hr : s.resetLine = false) (r : Reg) :
    busAccess ⟨(r.offset : Int), 32, 1, .read⟩ s = .next (s.readLogged r) :=
  busAccess_read hr (target_offset r .read) rfl

theorem busAccess_write_offset {s : State} (hr : s.resetLine = false) (r : Reg) (v : Word) :
    busAccess ⟨(r.offset : Int), 32, 1, .write v⟩ s = .next (s.writeLogged r v) :=
  busAccess_write hr (target_offset r (.write v)) rfl

theorem busy_of_latched {s : State} {p : Latched} (h : s.pending = some p) : s.busy = true := by
  simp [State.busy, h]

theorem idle_of_not_busy {s : State} (h : s.busy = false) : s.pending = none := by
  simpa [State.busy] using h

theorem latched_of_busy {s : State} (h : s.busy = true) : ∃ p, s.pending = some p :=
  Option.isSome_iff_exists.1 h

theorem readReg_idle_state {s : State} (h : s.busy = false) (r : Reg) : (s.readReg r).2 = s := by
  cases r <;> simp [State.readReg, State.readWhenIdle_idle _ _ h]

/-- Settles O44: an idle read leaves the free-word counter, so of `readLogged_eq` only the log entry is left. -/
theorem idleReadReturnsTheRegister : Obligations.IdleReadReturnsTheRegister := by
  intro s r hidle hr
  have hbusy : s.busy = false := by simp [State.busy, hidle]
  refine ⟨(s.readReg r).1, ?_, ?_⟩
  · rw [busAccess_read_offset hr, readLogged_eq, readReg_idle_state hbusy]
  · cases r <;> simp [State.readReg, State.readWhenIdle_idle _ _ hbusy]

theorem readWhenIdle_busy (v : Word) {s : State} (h : s.busy = true) :
    s.readWhenIdle v = (Config.freeWord s.draws, { s with draws := s.draws + 1 }) :=
  if_pos h

theorem statusWord_bit0 (s : State) : s.statusWord.getLsbD 0 = s.busy := (statusWordFields s).1

/-- Settles O45: the value and the counter of `readLogged_eq`, register by register. -/
theorem busyReadIsFree : Obligations.BusyReadIsFree := by
  intro s r hbusy hr
  refine ⟨(s.readReg r).1, (s.readReg r).2.draws, by rw [busAccess_read_offset hr, readLogged_eq], ?_⟩
  cases r with
  | cmd => exact .inl ⟨rfl, rfl, rfl⟩
  | status => exact .inr (.inl ⟨rfl, rfl, (statusWord_bit0 s).trans hbusy, rfl⟩)
  | data n => exact .inr (.inr (.inl ⟨n, rfl, rfl, rfl⟩))
  | _ => exact .inr (.inr (.inr (by simp [State.readReg, readWhenIdle_busy _ hbusy])))

/-- Settles O46: a read-only register's write and a write to DATA are cases of `State.writeReg`. -/
theorem writesToReadOnlyAndData : Obligations.WritesToReadOnlyAndData := by
  intro s v hr
  refine ⟨busAccess_read_offset hr .cmd, fun r hmem => ?_, fun n => busAccess_write_offset hr (.data n) v⟩
  rw [busAccess_write_offset hr]
  simp only [List.mem_cons, List.not_mem_nil, or_false] at hmem
  obtain rfl | rfl | rfl | rfl | rfl | rfl := hmem <;> rfl

/-- Settles O47: acceptance while idle, ILLEGAL_COMMAND of an engine turn on an illegal word, OVR while busy. -/
theorem cmdWriteIsAcceptedOrDropped : Obligations.CmdWriteIsAcceptedOrDropped := by
  intro s w hr
  have hwrite : busAccess ⟨0x00, 32, 1, .write w⟩ s = .next (s.writeLogged .cmd w) := busAccess_write_offset hr .cmd w
  refine ⟨fun hidle => ?_, fun ⟨e, he⟩ => engineTurn_illegal _ ⟨w, s.data⟩ e rfl he, fun hbusy => ?_⟩
  · rw [hwrite, State.writeLogged, State.writeReg, State.writeCmd_idle w s (idle_of_not_busy hidle)]
  · obtain ⟨p, hp⟩ := latched_of_busy hbusy
    rw [hwrite, State.writeLogged, State.writeReg, State.writeCmd_busy w s p hp]

/-- Settles O49: an access is a read or a write of a register, and neither reaches the engine's registers. -/
theorem hostAccessesLeaveTheEngineAlone : Obligations.HostAccessesLeaveTheEngineAlone := by
  intro a s t h
  obtain ⟨-, r, -, ⟨-, rfl⟩ | ⟨v, -, rfl⟩⟩ := busAccess_cases a s t h
  · simp
  · have hpending (hbusy : s.busy = true) : (s.writeLogged r v).pending = s.pending :=
      writeReg_pending r v s (Option.isSome_iff_ne_none.1 hbusy)
    simpa using hpending

/-! ### The write to STATUS (R58) -/

/-- The mask of the write-1-to-clear bits: ERRS and OVR. -/
theorem stickyMask_getLsbD : ∀ k < 32, (0x00003000 : Word).getLsbD k = (decide (k = 12) || decide (k = 13)) := by
  decide

theorem statusWord_writeStatus (w : Word) (s : State) :
    (s.writeStatus w).statusWord = s.statusWord &&& ~~~ (w &&& 0x00003000) := by
  refine BitVec.eq_of_getLsbD_eq fun k hk => ?_
  have hrows : (s.writeStatus w).rowLoadedBits = s.rowLoadedBits := rfl
  rw [BitVec.getLsbD_and, BitVec.getLsbD_not, BitVec.getLsbD_and, stickyMask_getLsbD k hk, statusWord_getLsbD _ k hk,
    statusWord_getLsbD _ k hk, hrows]
  by_cases h12 : k = 12
  · subst h12; simp [-BitVec.getLsbD_eq_getElem, rowLoadedBits_getLsbD]
  by_cases h13 : k = 13
  · subst h13; simp [-BitVec.getLsbD_eq_getElem, rowLoadedBits_getLsbD]
  · simp [h12, h13, hk, State.busy, State.keyLoaded, State.expValid]

/-- Settles O42: the word bit by bit; what sets ERRS or OVR after the write sets it whatever its value. -/
theorem statusWriteClearsTheStickyBits : Obligations.StatusWriteClearsTheStickyBits := by
  intro w s
  refine ⟨statusWord_writeStatus w s, rfl, fun i t h herr => ?_, fun v hbusy => ?_⟩
  · obtain ⟨-, herrs⟩ | ⟨hok, -⟩ := effect_errs (exec_effect i _ t h)
    · exact herrs
    · exact absurd hok herr
  · obtain ⟨p, hp⟩ := latched_of_busy hbusy
    exact congrArg State.ovr (State.writeCmd_busy v (s.writeReg .status w) p hp)

end Sys2Proof.Machine
end

section
namespace Sys2Proof.Machine

/-! ### Whose turn it is, and a host that is never refused (R57, R190, R205) -/

theorem step_engine {s : State} {rest : List Agent} (h : s.sched = .engine :: rest) :
    step s = engineTurn { s with sched := rest } := by
  simp [step, takeTurn, h]

theorem step_engine_of_busy {s : State} (h : s.sched = []) (hb : s.busy = true) : step s = engineTurn s := by
  simp [step, takeTurn, h, hb]

/-- Settles O7: the step is an engine turn, which the latched word decides. -/
theorem engineStepRunsLatchedCommand : Obligations.EngineStepRunsLatchedCommand := by
  intro s p hp
  refine ⟨fun i hd => ⟨fun rest hs => ?_, fun hs => ?_⟩, fun e hd => ⟨fun rest hs => ?_, fun hs => ?_⟩⟩
  · exact (step_engine hs).trans (engineTurn_ok _ p i hp hd)
  · exact (step_engine_of_busy hs (busy_of_latched hp)).trans (engineTurn_ok s p i hp hd)
  · exact (step_engine hs).trans (engineTurn_illegal _ p e hp hd)
  · exact (step_engine_of_busy hs (busy_of_latched hp)).trans (engineTurn_illegal s p e hp hd)

/-- The machine goes on: the outcome is a next state (R190). -/
def Completes (r : Result) : Prop := ∃ t, r = .next t

theorem completes_next (t : State) : Completes (.next t) := ⟨t, rfl⟩

theorem completes_ite {c : Prop} [Decidable c] {r q : Result} (hr : Completes r) (hq : Completes q) :
    Completes (if c then r else q) := by
  split
  · exact hr
  · exact hq

theorem completes_requireBlockLen {len : Len} {s : State} {k : Result} (hk : Completes k) :
    Completes (requireBlockLen len s k) :=
  completes_ite (completes_next _) hk

theorem completes_requireAligned {len : Len} {s : State} {k : Result} (hk : Completes k) :
    Completes (requireAligned len s k) :=
  completes_ite (completes_next _) hk

theorem completes_requireIv {s : State} {k : Result} (hk : Completes k) : Completes (requireIv s k) :=
  completes_ite hk (completes_next _)

theorem completes_requireConfigured {s : State} {k : Cipher → Result} (hk : ∀ c, Completes (k c)) :
    Completes (requireConfigured s k) := by
  obtain ⟨-, e⟩ | ⟨_, -, -, e⟩ | ⟨key, exp, -, -, e⟩ := requireConfigured_cases s k <;> rw [e]
  · exact completes_next _
  · exact completes_next _
  · exact hk _

/-- Every command goes on: a check that fails raises an error, which is a next state as well (R190). -/
theorem exec_completes (i : Instr) (s : State) : Completes (exec i s) := by
  have done (u : State) : Completes (complete u) := completes_next _
  have failed (c : ErrCode) : Completes (raiseError c s) := completes_next _
  cases i with
  | nop | macReset | macLoad => exact done _
  | loadKey len => exact completes_ite (failed _) (completes_ite (failed _) (done _))
  | loadSboxRow row len => exact completes_ite (failed _) (completes_ite (done _) (failed _))
  | loadIv len => exact completes_ite (failed _) (done _)
  | expand =>
    rw [exec, execExpand]
    cases allRows s.sbox with
    | none => exact failed _
    | some m => exact done _
  | ctrInit =>
    rw [exec, execCtrInit]
    exact completes_requireConfigured fun c => completes_requireIv (done _)
  | ecbEnc len | ecbDec len | macUpdate len =>
    exact completes_requireBlockLen (completes_requireAligned
      (completes_requireConfigured fun c => completes_ite (done _) (done _)))
  | ctr len | cfbEnc len | cfbDec len =>
    exact completes_requireBlockLen (completes_requireConfigured fun c =>
      completes_requireIv (completes_ite (done _) (done _)))

theorem engineTurn_completes (s : State) : Completes (engineTurn s) := by
  unfold engineTurn
  split
  · exact completes_next _
  · split
    · exact exec_completes _ _
    · exact completes_next _

theorem engineTurn_ovr {s t : State} (h : engineTurn s = .next t) : t.ovr = s.ovr := by
  obtain ⟨-, rfl⟩ | ⟨p, -, ⟨e, -, rfl⟩ | ⟨i, -, he⟩⟩ := engineTurn_cases s t h
  · rfl
  · rfl
  · obtain ⟨-, hovr, -⟩ := effect_frame i s t he
    exact hovr

/-- A legal access that is no CMD write while BUSY = 1 is performed and leaves OVR clear (R53, R56, R205). -/
theorem busAccess_disciplined {a : Access} {s : State} (hlegal : a.Legal) (hr : s.resetLine = false)
    (hcmd : ∀ v, a.op = .write v → a.target = .ok .cmd → s.busy = false) :
    ∃ t, busAccess a s = .next t ∧ (s.ovr = false → t.ovr = false) := by
  obtain ⟨-, r, -, ht⟩ | ⟨hillegal, -⟩ := target_cases a
  · cases ho : a.op with
    | read => exact ⟨_, busAccess_read hr ht ho, fun hovr => by simp [hovr]⟩
    | write v =>
      refine ⟨_, busAccess_write hr ht ho, fun hovr => ?_⟩
      have hidle : r = .cmd → s.busy = false := fun h => hcmd v ho (h ▸ ht)
      simpa [hovr] using hidle
  · exact absurd hlegal hillegal

/-- A host operation of the disciplined host is performed and leaves OVR clear (R205). -/
theorem hostTurn_disciplined (s : State) (h : s.hostDisciplined) :
    ∃ t, hostTurn s = .next t ∧ (s.ovr = false → t.ovr = false) := by
  unfold State.hostDisciplined at h
  unfold hostTurn
  split
  case h_1 => exact ⟨_, rfl, id⟩
  case h_2 a rest hp =>
    rw [hp] at h
    obtain ⟨hlegal, hr, hcmd⟩ := h
    exact busAccess_disciplined hlegal hr hcmd
  case h_3 rest hp =>
    rw [hp] at h
    rw [pollStatus, if_neg (by simp [h])]
    split
    · exact ⟨_, rfl, fun hovr => by simp [hovr]⟩
    · exact ⟨_, rfl, fun hovr => by simp [hovr]⟩
  case h_4 => exact ⟨_, rfl, fun _ => rfl⟩
  case h_5 => exact ⟨_, rfl, id⟩

/-- Settles O11: an engine turn always completes and leaves OVR, a host turn by the discipline, which the schedule does not
enter. -/
theorem disciplinedHostIsNeverRefused : Obligations.DisciplinedHostIsNeverRefused := by
  intro s hd
  have engine (u : State) (hu : u.ovr = s.ovr) : ∃ t, engineTurn u = .next t ∧ (s.ovr = false → t.ovr = false) := by
    obtain ⟨t, ht⟩ := engineTurn_completes u
    exact ⟨t, ht, fun hovr => by rw [engineTurn_ovr ht, hu, hovr]⟩
  obtain ⟨q, -, e⟩ | ⟨q, -, e⟩ | ⟨-, -, e⟩ | ⟨-, -, e⟩ := step_cases s <;> rw [e]
  · exact engine _ rfl
  · exact hostTurn_disciplined _ hd
  · exact engine _ rfl
  · exact hostTurn_disciplined _ hd

end Sys2Proof.Machine
end

section
namespace Sys2Proof.Machine

/-! ### What a command does not read (R59, R66, R79, R203)

A change of fields that a command neither reads nor writes can be made before it or after it. -/

/-- `f` applied to the next state of an outcome. -/
def mapNext (f : State → State) : Result → Result
  | .next s => .next (f s)
  | .fault r => .fault r
  | .refused r => .refused r

theorem mapNext_ite (f : State → State) {c : Prop} [Decidable c] (r q : Result) :
    mapNext f (if c then r else q) = if c then mapNext f r else mapNext f q :=
  apply_ite _ _ _ _

/-- DATA, SBOX and EXP_STALE each replaced by a function of itself: a command other than EXPAND and LOAD_SBOX_ROW writes
none of them, and reads DATA at most as its operands (R79, R113). -/
def State.changed (d : Words8 → Words8) (m : Vector (Option SboxRow) 8 → Vector (Option SboxRow) 8) (b : Bool → Bool)
    (s : State) : State :=
  { s with data := d s.data, sbox := m s.sbox, expStale := b s.expStale }

section
variable (d : Words8 → Words8) (m : Vector (Option SboxRow) 8 → Vector (Option SboxRow) 8) (b : Bool → Bool) (s : State)

theorem mapNext_complete : mapNext (.changed d m b) (complete s) = complete (s.changed d m b) := rfl

theorem mapNext_raiseError (c : ErrCode) :
    mapNext (.changed d m b) (raiseError c s) = raiseError c (s.changed d m b) := rfl

theorem mapNext_requireConfigured (k : Cipher → Result) :
    mapNext (.changed d m b) (requireConfigured s k) =
      requireConfigured (s.changed d m b) fun c => mapNext (.changed d m b) (k c) := by
  have hkey : (s.changed d m b).key = s.key := rfl
  have hexp : (s.changed d m b).exp = s.exp := rfl
  unfold requireConfigured
  rw [hkey, hexp]
  cases s.key <;> cases s.exp <;> rfl

/-- Where the operands stay the same, the change commutes with every command but EXPAND and LOAD_SBOX_ROW. -/
theorem exec_changed (i : Instr) (hop : (s.changed d m b).operands = s.operands) (hexpand : i ≠ .expand)
    (hrow : ∀ row len, i ≠ .loadSboxRow row len) :
    exec i (s.changed d m b) = mapNext (.changed d m b) (exec i s) := by
  cases i with
  | expand => exact absurd rfl hexpand
  | loadSboxRow row len => exact absurd rfl (hrow row len)
  | nop | macReset => rfl
  | loadKey | loadIv | macLoad =>
    simp only [exec, execLoadKey, execLoadIv, execMacLoad, mapNext_ite, mapNext_complete, mapNext_raiseError, hop]
    rfl
  | _ =>
    simp only [exec, execCtrInit, execEcbEnc, execEcbDec, execMacUpdate, execCtr, execCfbEnc, execCfbDec,
      requireBlockLen, requireAligned, requireIv, mapNext_ite, mapNext_requireConfigured, mapNext_complete,
      mapNext_raiseError, hop]
    rfl

end

/-- Settles O50: `exec_changed` with SBOX and EXP_STALE replaced. -/
theorem staleTablesAreUsedAsTheyAre : Obligations.StaleTablesAreUsedAsTheyAre := by
  intro i s t m b h hexpand hrow
  have hchanged := exec_changed id (fun _ => m) (fun _ => b) s i rfl hexpand hrow
  rwa [h] at hchanged

/-- Settles O48: `exec_changed` with DATA replaced; EXPAND reads SBOX only, LOAD_SBOX_ROW the snapshot. -/
theorem commandReadsTheSnapshotOnly : Obligations.CommandReadsTheSnapshotOnly := by
  intro i s t p d hp h
  have hop : (s.changed (fun _ => d) id id).operands = s.operands :=
    (State.operands_latched (s.changed _ id id) p hp).trans (State.operands_latched s p hp).symm
  have hchanged : exec i (s.changed (fun _ => d) id id) = mapNext (.changed (fun _ => d) id id) (exec i s) := by
    cases i with
    | expand =>
      have hsbox : (s.changed (fun _ => d) id id).sbox = s.sbox := rfl
      rw [exec, exec, execExpand, execExpand, hsbox]
      cases allRows s.sbox <;> rfl
    | loadSboxRow row len =>
      simp only [exec, execLoadSboxRow, mapNext_ite, mapNext_complete, mapNext_raiseError, hop]
      rfl
    | _ => exact exec_changed _ _ _ s _ hop (by simp) (by simp)
  rwa [h] at hchanged

end Sys2Proof.Machine
end

section
namespace Sys2Proof

/-! ### The decoder, once and for all (R70 to R81)

`decode_eq_ok_iff` says which words stand for a command; the statements about the decoder are read off it. -/

/-- The opcode map reads a well-formed command back from its own fields (R76, R80). -/
theorem decodeFields_of_wf (i : Instr) (h : i.wf = true) : decodeFields i.opc i.len i.row = .ok i := by
  cases i with
  | nop => exact Laws.DecodeFields.nop h
  | loadKey len => exact Laws.DecodeFields.loadKey len h
  | loadSboxRow row len => exact Laws.DecodeFields.loadSboxRow row len h
  | expand => exact Laws.DecodeFields.expand h
  | loadIv len => exact Laws.DecodeFields.loadIv len h
  | ctrInit => exact Laws.DecodeFields.ctrInit h
  | ecbEnc len => exact Laws.DecodeFields.ecbEnc len h
  | ecbDec len => exact Laws.DecodeFields.ecbDec len h
  | ctr len => exact Laws.DecodeFields.ctr len h
  | cfbEnc len => exact Laws.DecodeFields.cfbEnc len h
  | cfbDec len => exact Laws.DecodeFields.cfbDec len h
  | macReset => exact Laws.DecodeFields.macReset h
  | macUpdate len => exact Laws.DecodeFields.macUpdate len h
  | macLoad => exact Laws.DecodeFields.macLoad h

/-- A word stands for a command exactly if its reserved bits are 0 and its fields are those of the command, which is
well-formed (R74, R75, R76, R78, R80). -/
theorem decode_eq_ok_iff {w : Word} {i : Instr} :
    decode w = .ok i ↔
      rsv0Field w = 0 ∧ rsv1Field w = 0 ∧ i.opc = opcField w ∧ i.len = lenField w ∧ i.row = rowField w ∧
        i.wf = true := by
  constructor
  · intro h
    obtain ⟨-, h⟩ | ⟨hrsv, h⟩ := ite_eq_ok _ _ _ _ h
    · cases h
    · obtain ⟨h0, h1⟩ := not_or.1 hrsv
      exact ⟨not_not.1 h0, not_not.1 h1, decodeFields_ok _ _ _ _ h⟩
  · rintro ⟨h0, h1, hopc, hlen, hrow, hwf⟩
    rw [decode, if_neg (by simp [h0, h1]), ← hopc, ← hlen, ← hrow, decodeFields_of_wf i hwf]

theorem decode_error_of_not_ok {w : Word} (h : ∀ i, decode w ≠ .ok i) : ∃ e, decode w = .error e := by
  cases hd : decode w with
  | ok i => exact absurd hd (h i)
  | error e => exact ⟨e, rfl⟩

/-- Settles O1: the encoder's word has the command's fields and no reserved bit, which the decoder asks for. -/
theorem decodeEncodeAgree : Obligations.DecodeEncodeAgree := by
  intro i hwf
  obtain ⟨hopc, hlen, hrow, h0, h1⟩ := encode_fields i
  exact decode_eq_ok_iff.2 ⟨h0, h1, hopc.symm, hlen.symm, hrow.symm, hwf⟩

/-- Settles O2: a word with no reserved bit is the join of its fields, which are the decoded command's. -/
theorem decodedWordIsItsEncoding : Obligations.DecodedWordIsItsEncoding := by
  intro w i h
  obtain ⟨h0, h1, hopc, hlen, hrow, hwf⟩ := decode_eq_ok_iff.1 h
  exact ⟨by rw [encode, hopc, hlen, hrow, join_fields w h0 h1], hwf⟩

/-- Settles O4, by evaluation of the decoder on each word of R84. -/
theorem workedEncodingsDecode : Obligations.WorkedEncodingsDecode := by
  refine ⟨?_, ?_, ?_, ?_, ?_, ?_, ?_, ?_, ?_, ?_, ?_, ?_, ?_, ?_, ?_, ?_, fun w hw => ?illegal⟩
  case illegal =>
    simp only [List.mem_cons, List.not_mem_nil, or_false] at hw
    obtain rfl | rfl | rfl | rfl | rfl | rfl := hw <;> rfl
  all_goals decide

/-! ### The opcode table (spec/opcode_table.json) -/

/-- A word is its five fields (R70). -/
theorem word_ext_fields {x y : Word} (hopc : opcField x = opcField y) (hlen : lenField x = lenField y)
    (h0 : rsv0Field x = rsv0Field y) (hrow : rowField x = rowField y) (h1 : rsv1Field x = rsv1Field y) : x = y := by
  refine BitVec.eq_of_getLsbD_eq fun k hk => ?_
  have bit {start width : Nat} (h : x.extractLsb' start width = y.extractLsb' start width) (hlo : start ≤ k)
      (hhi : k < start + width) : x.getLsbD k = y.getLsbD k := by
    have hbit := congrArg (BitVec.getLsbD · (k - start)) h
    simpa only [BitVec.getLsbD_extractLsb', show k - start < width by omega, decide_true, Bool.true_and,
      Nat.add_sub_cancel' hlo] using hbit
  obtain hk | ⟨hlo, hk⟩ | ⟨hlo, hk⟩ | ⟨hlo, hk⟩ | hlo :
      k < 8 ∨ (8 ≤ k ∧ k < 14) ∨ (14 ≤ k ∧ k < 16) ∨ (16 ≤ k ∧ k < 19) ∨ 19 ≤ k := by omega
  · exact bit hopc (Nat.zero_le k) (by omega)
  · exact bit hlen hlo hk
  · exact bit h0 hlo hk
  · exact bit hrow hlo hk
  · exact bit h1 hlo hk

/-- A word with nothing but an opcode is 0 above it. -/
theorem extractLsb'_opcWord (o : BitVec 8) {start width : Nat} (h : 8 ≤ start) :
    (o.setWidth 32).extractLsb' start width = 0 := by
  refine BitVec.eq_of_getLsbD_eq fun j hj => ?_
  simp [BitVec.getLsbD_of_ge o (start + j) (by omega)]

theorem opcField_opcWord (o : BitVec 8) : opcField (o.setWidth 32) = o := by
  refine BitVec.eq_of_getLsbD_eq fun j hj => ?_
  simp [opcField, hj, show j < 32 by omega]

/-- Masking a word masks each of its fields. -/
theorem and_eq_iff_fields (w m v : Word) :
    w &&& m = v ↔ opcField w &&& opcField m = opcField v ∧ lenField w &&& lenField m = lenField v ∧
      rsv0Field w &&& rsv0Field m = rsv0Field v ∧ rowField w &&& rowField m = rowField v ∧
      rsv1Field w &&& rsv1Field m = rsv1Field v := by
  simp only [opcField, lenField, rsv0Field, rowField, rsv1Field, ← BitVec.extractLsb'_and]
  constructor
  · rintro rfl
    exact ⟨rfl, rfl, rfl, rfl, rfl⟩
  · rintro ⟨hopc, hlen, h0, hrow, h1⟩
    exact word_ext_fields hopc hlen h0 hrow h1

/-- Each mask of the table fixes the opcode and the reserved bits, and each value is an opcode alone; the mask decides
whether LEN and ROW are fixed at 0 too (R74, R75). -/
theorem and_eq_opcWord_iff (w : Word) {m : Word} (o : BitVec 8) (hopc : opcField m = BitVec.allOnes 8)
    (h0 : rsv0Field m = BitVec.allOnes 2) (h1 : rsv1Field m = BitVec.allOnes 13) :
    w &&& m = o.setWidth 32 ↔ rsv0Field w = 0 ∧ rsv1Field w = 0 ∧ opcField w = o ∧
      lenField w &&& lenField m = 0 ∧ rowField w &&& rowField m = 0 := by
  have hlen : lenField (o.setWidth 32) = 0 := extractLsb'_opcWord o (by omega)
  have hrow : rowField (o.setWidth 32) = 0 := extractLsb'_opcWord o (by omega)
  have hrsv0 : rsv0Field (o.setWidth 32) = 0 := extractLsb'_opcWord o (by omega)
  have hrsv1 : rsv1Field (o.setWidth 32) = 0 := extractLsb'_opcWord o (by omega)
  rw [and_eq_iff_fields, hopc, h0, h1, hlen, hrow, hrsv0, hrsv1, opcField_opcWord, BitVec.and_allOnes,
    BitVec.and_allOnes, BitVec.and_allOnes]
  tauto

/-- The row of an opcode that uses neither LEN nor ROW. -/
def bareRow (o : BitVec 8) : TableRow := ⟨0xFFFFFFFF, o.setWidth 32, 0⟩

/-- The row of an opcode that uses LEN, up to `n`, and not ROW. -/
def lenRow (o : BitVec 8) (n : Len) : TableRow := ⟨0xFFFFC0FF, o.setWidth 32, n⟩

/-- The row of an opcode that uses ROW and every LEN. -/
def rowAndLenRow (o : BitVec 8) : TableRow := ⟨0xFFF8C0FF, o.setWidth 32, 63⟩

theorem opcodeTable_eq : opcodeTable =
    [bareRow 0x00, lenRow 0x01 63, rowAndLenRow 0x02, bareRow 0x03, lenRow 0x04 63, bareRow 0x05, lenRow 0x08 8,
      lenRow 0x09 8, lenRow 0x0A 8, lenRow 0x0C 8, lenRow 0x0D 8, bareRow 0x10, lenRow 0x11 8, bareRow 0x12] := by
  decide

theorem bareRow_matches (o : BitVec 8) (w : Word) :
    (bareRow o).Matches w ↔
      rsv0Field w = 0 ∧ rsv1Field w = 0 ∧ opcField w = o ∧ lenField w = 0 ∧ rowField w = 0 := by
  have hlen : lenField 0xFFFFFFFF = BitVec.allOnes 6 := by decide
  have hrow : rowField 0xFFFFFFFF = BitVec.allOnes 3 := by decide
  show w &&& 0xFFFFFFFF = o.setWidth 32 ∧ lenField w ≤ 0 ↔ _
  rw [and_eq_opcWord_iff w o (by decide) (by decide) (by decide), hlen, hrow, BitVec.and_allOnes,
    BitVec.and_allOnes]
  exact and_iff_left_of_imp fun ⟨_, _, _, hzero, _⟩ => BitVec.le_of_eq hzero

theorem lenRow_matches (o : BitVec 8) (n : Len) (w : Word) :
    (lenRow o n).Matches w ↔
      rsv0Field w = 0 ∧ rsv1Field w = 0 ∧ opcField w = o ∧ lenField w ≤ n ∧ rowField w = 0 := by
  have hlen : lenField 0xFFFFC0FF = 0#6 := by decide
  have hrow : rowField 0xFFFFC0FF = BitVec.allOnes 3 := by decide
  show w &&& 0xFFFFC0FF = o.setWidth 32 ∧ lenField w ≤ n ↔ _
  rw [and_eq_opcWord_iff w o (by decide) (by decide) (by decide), hlen, hrow, BitVec.and_allOnes,
    BitVec.and_zero]
  tauto

theorem rowAndLenRow_matches (o : BitVec 8) (w : Word) :
    (rowAndLenRow o).Matches w ↔ rsv0Field w = 0 ∧ rsv1Field w = 0 ∧ opcField w = o := by
  have hlen : lenField 0xFFF8C0FF = 0#6 := by decide
  have hrow : rowField 0xFFF8C0FF = 0#3 := by decide
  have hmax : lenField w ≤ 63 := by bv_omega
  show w &&& 0xFFF8C0FF = o.setWidth 32 ∧ lenField w ≤ 63 ↔ _
  rw [and_eq_opcWord_iff w o (by decide) (by decide) (by decide), hlen, hrow, and_iff_left hmax,
    BitVec.and_zero, BitVec.and_zero]
  tauto

theorem decode_of_bareRow {w : Word} (i : Instr) (h : (bareRow i.opc).Matches w) (hlen : i.len = 0) (hrow : i.row = 0)
    (hwf : i.wf = true) : decode w = .ok i := by
  obtain ⟨h0, h1, hopc, hl, hr⟩ := (bareRow_matches _ _).1 h
  exact decode_eq_ok_iff.2 ⟨h0, h1, hopc.symm, hlen.trans hl.symm, hrow.trans hr.symm, hwf⟩

theorem decode_of_lenRow {w : Word} {n : Len} (i : Instr) (h : (lenRow i.opc n).Matches w) (hlen : i.len = lenField w)
    (hrow : i.row = 0) (hwf : lenField w ≤ n → i.wf = true) : decode w = .ok i := by
  obtain ⟨h0, h1, hopc, hl, hr⟩ := (lenRow_matches _ _ _).1 h
  exact decode_eq_ok_iff.2 ⟨h0, h1, hopc.symm, hlen, hrow.trans hr.symm, hwf hl⟩

theorem exists_row_of_decode {w : Word} {i : Instr} (h : decode w = .ok i) : ∃ r ∈ opcodeTable, r.Matches w := by
  obtain ⟨h0, h1, hopc, hlen, hrow, hwf⟩ := decode_eq_ok_iff.1 h
  rw [opcodeTable_eq]
  cases i with
  | nop | expand | ctrInit | macReset | macLoad =>
    exact ⟨_, by simp [Instr.opc], (bareRow_matches _ w).2 ⟨h0, h1, hopc.symm, hlen.symm, hrow.symm⟩⟩
  | loadSboxRow row len => exact ⟨_, by simp [Instr.opc], (rowAndLenRow_matches _ w).2 ⟨h0, h1, hopc.symm⟩⟩
  | loadKey len | loadIv len =>
    exact ⟨_, by simp [Instr.opc], (lenRow_matches _ 63 w).2 ⟨h0, h1, hopc.symm, by bv_omega, hrow.symm⟩⟩
  | ecbEnc len | ecbDec len | ctr len | cfbEnc len | cfbDec len | macUpdate len =>
    exact ⟨_, by simp [Instr.opc],
      (lenRow_matches _ 8 w).2 ⟨h0, h1, hopc.symm, hlen ▸ of_decide_eq_true hwf, hrow.symm⟩⟩

theorem exists_decode_of_row {w : Word} {r : TableRow} (hr : r ∈ opcodeTable) (h : r.Matches w) :
    ∃ i, decode w = .ok i := by
  simp only [opcodeTable_eq, List.mem_cons, List.not_mem_nil, or_false] at hr
  obtain rfl | rfl | rfl | rfl | rfl | rfl | rfl | rfl | rfl | rfl | rfl | rfl | rfl | rfl := hr
  · exact ⟨_, decode_of_bareRow .nop h rfl rfl rfl⟩
  · exact ⟨_, decode_of_lenRow (.loadKey _) h rfl rfl fun _ => rfl⟩
  · obtain ⟨h0, h1, hopc⟩ := (rowAndLenRow_matches _ _).1 h
    exact ⟨_, decode_eq_ok_iff (i := .loadSboxRow _ _).2 ⟨h0, h1, hopc.symm, rfl, rfl, rfl⟩⟩
  · exact ⟨_, decode_of_bareRow .expand h rfl rfl rfl⟩
  · exact ⟨_, decode_of_lenRow (.loadIv _) h rfl rfl fun _ => rfl⟩
  · exact ⟨_, decode_of_bareRow .ctrInit h rfl rfl rfl⟩
  · exact ⟨_, decode_of_lenRow (.ecbEnc _) h rfl rfl decide_eq_true⟩
  · exact ⟨_, decode_of_lenRow (.ecbDec _) h rfl rfl decide_eq_true⟩
  · exact ⟨_, decode_of_lenRow (.ctr _) h rfl rfl decide_eq_true⟩
  · exact ⟨_, decode_of_lenRow (.cfbEnc _) h rfl rfl decide_eq_true⟩
  · exact ⟨_, decode_of_lenRow (.cfbDec _) h rfl rfl decide_eq_true⟩
  · exact ⟨_, decode_of_bareRow .macReset h rfl rfl rfl⟩
  · exact ⟨_, decode_of_lenRow (.macUpdate _) h rfl rfl decide_eq_true⟩
  · exact ⟨_, decode_of_bareRow .macLoad h rfl rfl rfl⟩

/-- Settles O3: a row fixes the opcode, the reserved bits and the fields its opcode does not use, and bounds LEN. -/
theorem decoderAcceptsExactlyTheTable : Obligations.DecoderAcceptsExactlyTheTable :=
  fun _ => ⟨fun ⟨_, h⟩ => exists_row_of_decode h, fun ⟨_, hr, h⟩ => exists_decode_of_row hr h⟩

end Sys2Proof
end

section
namespace Sys2Proof

/-! ### The words that stand for no command (R74 to R78) -/

/-- LOAD_SBOX_ROW alone uses ROW (R75). -/
theorem Instr.row_eq_zero {i : Instr} (h : i.opc ≠ 0x02) : i.row = 0 := by
  cases i with
  | loadSboxRow row len => exact absurd rfl h
  | _ => rfl

/-- The bare commands use no LEN (R75). -/
theorem Instr.len_eq_zero {i : Instr} (h : i.opc ∈ ([0x00, 0x03, 0x05, 0x10, 0x12] : List (BitVec 8))) :
    i.len = 0 := by
  cases i with
  | nop | expand | ctrInit | macReset | macLoad => rfl
  | _ => exact absurd h (by simp [Instr.opc])

/-- No command has a reserved opcode (R77). -/
theorem Instr.opc_assigned (i : Instr) :
    i.opc ∉ ([0x06, 0x07, 0x0B, 0x0E, 0x0F] : List (BitVec 8)) ∧ ¬ 0x13 ≤ i.opc := by
  cases i <;> simp [Instr.opc]

/-- A well-formed block command has LEN at most 8 (R78). -/
theorem Instr.len_le_eight {i : Instr}
    (h : i.opc ∈ ([0x08, 0x09, 0x0A, 0x0C, 0x0D, 0x11] : List (BitVec 8))) (hwf : i.wf = true) : i.len ≤ 8 := by
  cases i with
  | ecbEnc | ecbDec | ctr | cfbEnc | cfbDec | macUpdate => exact of_decide_eq_true hwf
  | _ => exact absurd h (by simp [Instr.opc])

end Sys2Proof

namespace Sys2Proof.Machine

/-- A latched word that stands for no command completes with ILLEGAL_COMMAND (R57, R80). -/
theorem engineTurn_not_ok {s : State} {p : Latched} (hp : s.pending = some p) (h : ∀ i, decode p.word ≠ .ok i) :
    engineTurn s = .next { s with err := .illegalCommand, errs := true, pending := none } := by
  obtain ⟨e, he⟩ := decode_error_of_not_ok h
  exact engineTurn_illegal s p e hp he

/-- Settles O5: each alternative contradicts what `decode_eq_ok_iff` says of a word that stands for a command. -/
theorem illegalWordCompletesWithIllegalCommand : Obligations.IllegalWordCompletesWithIllegalCommand := by
  intro s p hp hill
  refine engineTurn_not_ok hp fun i hi => ?_
  obtain ⟨h0, h1, hopc, hlen, hrow, -⟩ := decode_eq_ok_iff.1 hi
  obtain ⟨hreserved, hhigh⟩ := i.opc_assigned
  rw [opcField] at hopc
  rw [← hopc] at hill
  obtain h | h | ⟨h, hne⟩ | ⟨h, hbare⟩ | h | h := hill
  · exact h h0
  · exact h h1
  · exact h (hrow.symm.trans (Instr.row_eq_zero hne))
  · exact h (hlen.symm.trans (Instr.len_eq_zero hbare))
  · exact hreserved h
  · exact hhigh h

/-- Settles O6: the decoder gives well-formed commands only; the other LENs are the first check of their command. -/
theorem lenChecksSplitBetweenDecoderAndCommand : Obligations.LenChecksSplitBetweenDecoderAndCommand := by
  refine ⟨fun s p hp hlong hblock => ?_, fun s len h1 h7 i hi => ?_, fun s len hlen => if_pos hlen,
    fun s len hlen => if_pos hlen, fun s row len hlen => if_pos hlen⟩
  · have hnot (i : Instr) (hi : decode p.word = .ok i) : False := by
      obtain ⟨-, -, hopc, hlen, -, hwf⟩ := decode_eq_ok_iff.1 hi
      have hle : i.len ≤ 8 := Instr.len_le_eight (hopc ▸ hblock) hwf
      exact BitVec.not_lt.2 (hlen.symm.trans_le hle) hlong
    exact ⟨decode_error_of_not_ok hnot, engineTurn_not_ok hp hnot⟩
  · have h8 : len ≤ 8 := by bv_omega
    simp only [List.mem_cons, List.not_mem_nil, or_false] at hi
    obtain rfl | rfl | rfl := hi <;>
      exact (requireBlockLen_ok len s _ h8).trans (requireAligned_error len s _ h1 h7)

end Sys2Proof.Machine
end

section
namespace Sys2Proof.Machine

/-! ### The host's turn and its polling loop (R83, R214, R217) -/

theorem step_host {s : State} {rest : List Agent} (h : s.sched = .host :: rest) :
    step s = hostTurn { s with sched := rest } := by
  simp [step, takeTurn, h]

theorem step_host_of_idle {s : State} (h : s.sched = []) (hidle : s.pending = none) : step s = hostTurn s := by
  simp [step, takeTurn, h, State.busy, hidle]

section
variable {s : State} {ops : List HostOp}

theorem hostTurn_wait (hp : s.prog = .wait :: ops) : hostTurn s = pollStatus ops s := by
  rw [hostTurn, hp]

theorem pollStatus_inReset (hr : s.resetLine = true) : pollStatus ops s = refuseAccess .inReset :=
  if_pos hr

/-- A pass of `wait` that reads BUSY = 1 stays in the loop (R83). -/
theorem pollStatus_busy (hr : s.resetLine = false) (hbusy : s.statusWord.getLsbD 0 = true) :
    pollStatus ops s = .next { s with log := .read .status s.statusWord :: s.log } := by
  rw [pollStatus, if_neg (Bool.eq_false_iff.1 hr), if_pos hbusy]
  rfl

/-- A pass of `wait` that reads BUSY = 0 leaves the loop (R83). -/
theorem pollStatus_idle (hr : s.resetLine = false) (hidle : s.statusWord.getLsbD 0 = false) :
    pollStatus ops s = .next { s with prog := ops, log := .read .status s.statusWord :: s.log } := by
  rw [pollStatus, if_neg (Bool.eq_false_iff.1 hr), if_neg (Bool.eq_false_iff.1 hidle)]
  rfl

end

/-- Settles O8: whose turn it is, the operation the turn performs, and the three outcomes of a pass of `wait`. -/
theorem hostStepPerformsNextOperation : Obligations.HostStepPerformsNextOperation := by
  intro s
  refine ⟨fun rest => step_host, step_host_of_idle, fun a ops hp => ?access, fun ops hp => ?release, fun hp => ?done,
    fun ops hp => ?wait⟩
  case wait =>
    rw [hostTurn_wait hp]
    exact ⟨pollStatus_inReset, pollStatus_busy, pollStatus_idle⟩
  all_goals rw [hostTurn, hp]

/-- An engine turn ends with no command in flight, and leaves the host's program, the schedule and the reset line. -/
theorem engineTurn_frame {s t : State} (h : engineTurn s = .next t) :
    t.pending = none ∧ t.prog = s.prog ∧ t.sched = s.sched ∧ t.resetLine = s.resetLine := by
  obtain ⟨hidle, rfl⟩ | ⟨p, -, ⟨e, -, rfl⟩ | ⟨i, -, he⟩⟩ := engineTurn_cases s t h
  · exact ⟨hidle, rfl, rfl, rfl⟩
  · exact ⟨rfl, rfl, rfl, rfl⟩
  · obtain ⟨-, -, hline, hprog, hsched, -, -⟩ := effect_frame i s t he
    exact ⟨effect_pending i s t he, hprog, hsched, hline⟩

/-- At most `n` steps from `s` the host's program is over, no command is in flight, and the host has seen so (R216). -/
def State.ProgramEndsWithin (s : State) (n : Nat) : Prop :=
  ∃ k t, k ≤ n ∧ Host.Core.run core k s = .next t ∧ t.prog = [] ∧ t.pending = none ∧ sawIdle t.log = true

theorem run_of_step_next {M : Host.Core} {s u : M.State} (k : Nat) (h : M.step s = .next u) :
    M.run (k + 1) s = M.run k u := by
  rw [Host.Core.run, h]

theorem programEndsWithin_of_step {s u : State} {n : Nat} (h : step s = .next u) (hu : u.ProgramEndsWithin n) :
    s.ProgramEndsWithin (n + 1) := by
  obtain ⟨k, t, hk, hrun, ht⟩ := hu
  exact ⟨k + 1, t, Nat.succ_le_succ hk, (run_of_step_next (M := core) k h).trans hrun, ht⟩

/-- With no command in flight a pass of `wait` is the last, and the host has then seen BUSY = 0 (R83). -/
theorem wait_ends_of_idle {s u : State} {n : Nat} (h : step s = hostTurn u) (hp : u.prog = [.wait])
    (hr : u.resetLine = false) (hidle : u.busy = false) : s.ProgramEndsWithin (n + 1) := by
  have hbit : u.statusWord.getLsbD 0 = false := (statusWord_bit0 u).trans hidle
  refine programEndsWithin_of_step (h.trans ((hostTurn_wait hp).trans (pollStatus_idle hr hbit))) ?_
  exact ⟨0, _, Nat.zero_le n, rfl, rfl, idle_of_not_busy hidle, by rw [sawIdle, hbit]; rfl⟩

/-- `wait` takes at most a step for each entry of the schedule, one for a completion and one for the last read: each entry
is an engine turn, which leaves no command in flight, or a pass of the loop, which stays or is the last. -/
theorem wait_ends (q : List Agent) (s : State) (hq : s.sched = q) (hp : s.prog = [.wait]) (hr : s.resetLine = false) :
    s.ProgramEndsWithin (q.length + 2) := by
  induction q generalizing s with
  | nil =>
    cases hbusy : s.busy with
    | false => exact wait_ends_of_idle (step_host_of_idle hq (idle_of_not_busy hbusy)) hp hr hbusy
    | true =>
      obtain ⟨t, ht⟩ := engineTurn_completes s
      obtain ⟨hidle, hprog, hsched, hline⟩ := engineTurn_frame ht
      refine programEndsWithin_of_step ((step_engine_of_busy hq hbusy).trans ht) ?_
      exact wait_ends_of_idle (step_host_of_idle (hsched.trans hq) hidle) (hprog.trans hp) (hline.trans hr)
        (by simp [State.busy, hidle])
  | cons agent rest ih =>
    cases agent with
    | engine =>
      obtain ⟨t, ht⟩ := engineTurn_completes { s with sched := rest }
      obtain ⟨-, hprog, hsched, hline⟩ := engineTurn_frame ht
      exact programEndsWithin_of_step ((step_engine hq).trans ht) (ih t hsched (hprog.trans hp) (hline.trans hr))
    | host =>
      cases hbusy : s.busy with
      | false => exact wait_ends_of_idle (step_host hq) hp hr hbusy
      | true =>
        have hpoll := (step_host hq).trans (hostTurn_wait hp)
        exact programEndsWithin_of_step (hpoll.trans (pollStatus_busy hr ((statusWord_bit0 _).trans hbusy)))
          (ih _ rfl hp hr)

/-- Settles O12, by induction on the schedule (`wait_ends`). -/
theorem waitEndsUnderEverySchedule : Obligations.WaitEndsUnderEverySchedule :=
  fun s hp hr => wait_ends s.sched s rfl hp hr

end Sys2Proof.Machine
end

section
namespace Sys2Proof

/-! ### The rotator (R10, R103) -/

theorem rotl32_eq_rotateLeft (x : Word) {n : Nat} (hn : n < 32) : rotl32 x n = x.rotateLeft n :=
  (BitVec.rotateLeft_eq_rotateLeftAux_of_lt hn).symm

/-- The rotator moves bit `i` to bit `(i + n) mod 32`. -/
theorem rotl32_getLsbD (x : Word) {n i : Nat} (hn : n < 32) (hi : i < 32) :
    (rotl32 x n).getLsbD ((i + n) % 32) = x.getLsbD i := by
  rw [rotl32_eq_rotateLeft x hn, BitVec.getLsbD_rotateLeft, Nat.mod_eq_of_lt hn]
  obtain hstay | hwrap := Nat.lt_or_ge (i + n) 32
  · simp [Nat.mod_eq_of_lt hstay, hstay]
  · have hpos : (i + n) % 32 = i + n - 32 := by omega
    have hback : 32 - n + (i + n - 32) = i := by omega
    simp [hpos, hback, show i + n - 32 < n by omega]

end Sys2Proof
end

section
namespace Sys2Proof.Machine

/-! ### EXPAND (R100, R123) -/

/-- Settles O16: `allRows` gives the matrix whose rows are loaded, and nothing when a row is missing. -/
theorem expandBuildsTheTables : Obligations.ExpandBuildsTheTables := by
  refine ⟨rfl, fun s => ⟨fun m hrows => ⟨expand m, fun t i => by simp [expand, expandEntry], ?_⟩, fun hmissing => ?_⟩⟩
  · rw [exec, execExpand, (allRows_eq_some _ _).2 hrows]
    rfl
  · rw [exec, execExpand, (allRows_eq_none _).2 hmissing]
    rfl

/-! ### The round function (R102, R103) -/

theorem subst_eq_packLe (e : ExpTables) (w : Word) :
    subst e w = packLe e[0][(byteOf w 0).toFin] e[1][(byteOf w 1).toFin] e[2][(byteOf w 2).toFin]
      e[3][(byteOf w 3).toFin] :=
  rfl

/-- Lane `n` of a substituted word is the entry of table `n` at lane `n` (R102). -/
theorem byteOf_subst (e : ExpTables) (w : Word) (n : Fin 4) : byteOf (subst e w) n = e[n][(byteOf w n).toFin] := by
  rw [subst_eq_packLe, byteOf_packLe]
  fin_cases n <;> rfl

/-- Settles O55: the lanes of the substitution, and the rotator's bits on the sum of words. -/
theorem roundFunctionIsAddSubstituteRotate : Obligations.RoundFunctionIsAddSubstituteRotate := by
  refine fun e => ⟨byteOf_subst e, fun x k i hi => ?_⟩
  have hsum : BitVec.ofNat 32 (x.toNat + k.toNat) = add32 x k := rfl
  rw [hsum, roundF, rotl32_getLsbD _ (by decide) hi]

/-! ### The cipher and its inverse (R105 to R108, R111) -/

/-- The keys of the four double rounds of an ascending pass (R105). -/
def upKeys : List (Fin 8 × Fin 8) := [(0, 1), (2, 3), (4, 5), (6, 7)]

/-- The keys of the four double rounds of a descending pass (R106). -/
def downKeys : List (Fin 8 × Fin 8) := [(7, 6), (5, 4), (3, 2), (1, 0)]

theorem passUp_eq_foldl (c : Cipher) (x : Block) : passUp c x = upKeys.foldl (doubleRound c) x := rfl

theorem passDown_eq_foldl (c : Cipher) (x : Block) : passDown c x = downKeys.foldl (doubleRound c) x := rfl

@[simp] theorem Block.swap_swap (x : Block) : x.swap.swap = x := rfl

/-- A double round with its two keys exchanged, on the halves exchanged, undoes it: each half is XORed with the same value
again (R111). -/
theorem doubleRound_swap_doubleRound (c : Cipher) (x : Block) (ks : Fin 8 × Fin 8) :
    doubleRound c (doubleRound c x ks).swap ks.swap = x.swap := by
  simp [doubleRound, Block.swap]

/-- The double rounds in reverse order, keys exchanged, undo a list of double rounds. -/
theorem foldl_doubleRound_undo (c : Cipher) (l : List (Fin 8 × Fin 8)) (x : Block) :
    (l.reverse.map Prod.swap).foldl (doubleRound c) (l.foldl (doubleRound c) x).swap = x.swap := by
  induction l generalizing x with
  | nil => rfl
  | cons ks l ih =>
    simp only [List.reverse_cons, List.map_append, List.foldl_append, List.foldl_cons, ih]
    exact doubleRound_swap_doubleRound c x ks

@[simp] theorem passDown_swap_passUp (c : Cipher) (x : Block) : passDown c (passUp c x).swap = x.swap :=
  foldl_doubleRound_undo c upKeys x

@[simp] theorem passUp_swap_passDown (c : Cipher) (x : Block) : passUp c (passDown c x).swap = x.swap :=
  foldl_doubleRound_undo c downKeys x

theorem decrypt32_encrypt32 (c : Cipher) (x : Block) : decrypt32 c (encrypt32 c x) = x := by
  simp [decrypt32, encrypt32]

theorem encrypt32_decrypt32 (c : Cipher) (x : Block) : encrypt32 c (decrypt32 c x) = x := by
  simp [decrypt32, encrypt32]

/-- With equal key words both passes are the same double round, four times (R111). -/
theorem passUp_eq_passDown (c : Cipher) (k : Word) (hk : ∀ j : Fin 8, c.key[j] = k) : passUp c = passDown c := by
  have hsame (x : Block) (ks ks' : Fin 8 × Fin 8) : doubleRound c x ks = doubleRound c x ks' := by
    simp only [doubleRound, hk]
  funext x
  simp only [passUp, passDown, List.foldl_cons, List.foldl_nil, hsame _ _ (0, 0)]

/-- Settles O56: a pass undoes a pass of the other direction; with equal key words the two passes coincide. -/
theorem decryptAndEncryptAreInverse : Obligations.DecryptAndEncryptAreInverse := by
  refine ⟨fun c x => ⟨decrypt32_encrypt32 c x, encrypt32_decrypt32 c x⟩, fun c k hk x => ?_⟩
  rw [encrypt32, decrypt32, passUp_eq_passDown c k hk]

/-! ### The Feistel processor round by round (R109, R112) -/

/-- The unit of schedule `d` with `r` rounds done and the block `x` in its halves. -/
def FeistelUnit.after (d : Schedule) (r : Nat) (x : Block) : FeistelUnit := ⟨x.w0, x.w1, r, d⟩

theorem start_eq_after (d : Schedule) (x : Block) : FeistelUnit.start d x = .after d 0 x := rfl

/-- The key indices of the `n` double rounds that follow round `r` (R109). -/
def Schedule.keyPairs (d : Schedule) : Nat → Nat → List (Fin 8 × Fin 8)
  | _, 0 => []
  | r, n + 1 => (d.keyIndex (r + 1), d.keyIndex (r + 2)) :: d.keyPairs (r + 2) n

/-- After an even number of rounds, the next two are a double round: the odd one updates b, the even one a (R109). -/
theorem tick_tick_after (c : Cipher) (d : Schedule) (r : Nat) (hr : r % 2 = 0) (x : Block) :
    ((FeistelUnit.after d r x).tick c).tick c =
      .after d (r + 2) (doubleRound c x (d.keyIndex (r + 1), d.keyIndex (r + 2))) := by
  have hodd : (r + 1) % 2 = 1 := by omega
  have heven : ¬ (r + 1 + 1) % 2 = 1 := by omega
  simp [FeistelUnit.after, FeistelUnit.tick, doubleRound, hodd, heven]

theorem run_after (c : Cipher) (d : Schedule) (n r : Nat) (hr : r % 2 = 0) (x : Block) :
    FeistelUnit.run c (2 * n) (.after d r x) = .after d (r + 2 * n) ((d.keyPairs r n).foldl (doubleRound c) x) := by
  induction n generalizing r x with
  | zero => rfl
  | succ n ih =>
    rw [Nat.mul_succ, FeistelUnit.run, FeistelUnit.run, tick_tick_after c d r hr, ih _ (by omega), Schedule.keyPairs,
      List.foldl_cons, Nat.add_assoc, Nat.add_comm 2]

theorem encrypt_keyPairs : Schedule.encrypt.keyPairs 0 16 = upKeys ++ upKeys ++ upKeys ++ downKeys := rfl

theorem decrypt_keyPairs : Schedule.decrypt.keyPairs 0 16 = upKeys ++ downKeys ++ downKeys ++ downKeys := rfl

theorem compress_keyPairs : Schedule.compress.keyPairs 0 8 = upKeys ++ upKeys := rfl

/-- Settles O57: a run is the double rounds on the schedule's key pairs, and those are the passes' key pairs, one pass after
another (R107, R108, R110). -/
theorem roundScheduleComputesTheCipher : Obligations.RoundScheduleComputesTheCipher := by
  intro c x
  simp only [start_eq_after]
  refine ⟨?encrypt, ?decrypt, ?compress⟩
  case encrypt =>
    rw [show Schedule.encrypt.rounds = 2 * 16 from rfl, run_after c _ 16 0 rfl, encrypt_keyPairs]
    simp only [List.foldl_append, ← passUp_eq_foldl, ← passDown_eq_foldl]
    rfl
  case decrypt =>
    rw [show Schedule.decrypt.rounds = 2 * 16 from rfl, run_after c _ 16 0 rfl, decrypt_keyPairs]
    simp only [List.foldl_append, ← passUp_eq_foldl, ← passDown_eq_foldl]
    rfl
  case compress =>
    rw [show Schedule.compress.rounds = 2 * 8 from rfl, run_after c _ 8 0 rfl, compress_keyPairs]
    simp only [List.foldl_append, ← passUp_eq_foldl]
    rfl

/-! ### ECB_ENC and ECB_DEC of a whole block (R143, R144) -/

theorem exec_ecbEnc_eight (s : State) : exec (.ecbEnc 8) s =
    requireConfigured s fun c => complete { s with result := encrypt32 c (blockOf s.operands) } :=
  rfl

theorem exec_ecbDec_eight (s : State) : exec (.ecbDec 8) s =
    requireConfigured s fun c => complete { s with result := decrypt32 c (blockOf s.operands) } :=
  rfl

/-- What follows the configuration check of a command that ended in OK (R140). -/
theorem requireConfigured_of_ok {s t : State} {k : Cipher → Result} (h : requireConfigured s k = .next t)
    (hok : t.err = .ok) : ∃ c : Cipher, s.key = some c.key ∧ s.exp = some c.exp ∧ k c = .next t := by
  obtain ⟨-, e⟩ | ⟨_, -, -, e⟩ | ⟨key, exp, hkey, hexp, e⟩ := requireConfigured_cases s k <;> rw [e] at h
  · cases h; cases hok
  · cases h; cases hok
  · exact ⟨⟨key, exp⟩, hkey, hexp, h⟩

/-- Settles O24: both commands run on the same key and tables, on which decryption undoes encryption. -/
theorem ecbDecUndoesEcbEnc : Obligations.EcbDecUndoesEcbEnc := by
  intro s t u h hok hukey huexp hblock
  rw [exec_ecbEnc_eight] at h
  obtain ⟨c, hkey, hexp, hdone⟩ := requireConfigured_of_ok h hok
  cases hdone
  refine ⟨_, (exec_ecbDec_eight u).trans
    (requireConfigured_configured u _ c.key c.exp (hukey.trans hkey) (huexp.trans hexp)), rfl, ?_⟩
  calc decrypt32 c (blockOf u.operands)
    _ = decrypt32 c (encrypt32 c (blockOf s.operands)) := by rw [hblock]
    _ = blockOf s.operands := decrypt32_encrypt32 c _

end Sys2Proof.Machine
end

section
namespace Sys2Proof

/-! ### The command words of the configuration commands (R70, R84) -/

/-- A row load's word is its fixed bits joined with ROW in bits [18:16] (R70, R84). -/
theorem encode_loadSboxRow_sixteen (row : RowIndex) :
    encode (.loadSboxRow row 16) = 0x00001002 ||| (row.setWidth 32 <<< 16) := by
  have hfixed : ((16 : Len).setWidth 32 <<< 8) ||| (0x02 : BitVec 8).setWidth 32 = (0x00001002 : Word) := rfl
  rw [encode, BitVec.or_assoc, BitVec.or_comm]
  exact congrArg (· ||| row.setWidth 32 <<< 16) hfixed

end Sys2Proof

namespace Sys2Proof.Machine

/-! ### NOP (R120) -/

/-- Settles O13: NOP is the completion shared by all commands, on the state as it stands. -/
theorem nopWritesOnlyErr : Obligations.NopWritesOnlyErr :=
  ⟨rfl, complete_eq⟩

/-! ### LOAD_KEY (R121, R182, R186) -/

theorem State.keyLoaded_eq_false_iff (s : State) : s.keyLoaded = false ↔ s.key = none :=
  Option.isSome_eq_false_iff.trans Option.isNone_iff_eq_none

theorem State.keyLoaded_eq_true_iff (s : State) : s.keyLoaded = true ↔ s.key ≠ none :=
  Option.isSome_iff_ne_none

/-- The length check comes before the lock (R121, R191). -/
theorem exec_loadKey_of_len_ne (s : State) {len : Len} (hlen : len ≠ 32) :
    exec (.loadKey len) s = raiseError .invalidKeyLength s :=
  if_pos hlen

/-- With the right length the lock alone decides (R121). -/
theorem exec_loadKey_thirtyTwo (s : State) : exec (.loadKey 32) s =
    if s.keyLoaded then raiseError .keyLocked s else complete { s with key := some s.operands } :=
  rfl

/-- Settles O14: the length check is the first branch of LOAD_KEY, and KEY_LOADED the one behind it. -/
theorem loadKeySetsTheKeyOnce : Obligations.LoadKeySetsTheKeyOnce := by
  refine ⟨rfl, fun s => ⟨fun hnone => ?loads, fun hsome => ?locked, fun len => exec_loadKey_of_len_ne s⟩⟩
  case loads =>
    rw [exec_loadKey_thirtyTwo, s.keyLoaded_eq_false_iff.2 hnone]
    rfl
  case locked =>
    rw [exec_loadKey_thirtyTwo, s.keyLoaded_eq_true_iff.2 hsome]
    rfl

/-! ### LOAD_SBOX_ROW (R122, R185) -/

theorem rowBytes_getElem (d : Words8) (e : Fin 16) :
    (rowBytes d)[e] = byteOf (d[e.val / 4]'(by omega)) (e.val % 4) := by
  simp [rowBytes]

/-- A row of 16 bytes that pass the checks is loaded, and the tables are stale (R122). -/
theorem exec_loadSboxRow_of_rowOk {s : State} (row : RowIndex) (hok : rowOk (rowBytes s.operands) = true) :
    exec (.loadSboxRow row 16) s = complete
      { s with sbox := s.sbox.set row.toNat (some (rowOf (rowBytes s.operands))) row.isLt, expStale := true } :=
  if_pos hok

/-- A wrong length and bytes that fail the checks are refused alike (R185). -/
theorem exec_loadSboxRow_refused {s : State} (row : RowIndex) {len : Len}
    (hbad : len ≠ 16 ∨ rowOk (rowBytes s.operands) = false) :
    exec (.loadSboxRow row len) s = raiseError .invalidSboxRow s := by
  rw [exec, execLoadSboxRow]
  obtain hlen | hrow := hbad
  · rw [if_pos hlen]
  · rw [hrow, if_neg Bool.false_ne_true, ite_self]

/-- What makes 16 bytes fail the checks: an entry above 15, or two equal entries (R185). -/
theorem rowOk_eq_false_of_entries {v : Vector Byte 16}
    (h : (∃ e : Fin 16, v[e] > 15) ∨ ∃ e1 e2 : Fin 16, e1 ≠ e2 ∧ v[e1] = v[e2]) : rowOk v = false := by
  refine Bool.eq_false_iff.2 fun hok => ?_
  obtain ⟨hle, hdistinct⟩ := (rowOk_iff v).1 hok
  obtain ⟨e, habove⟩ | ⟨e1, e2, hne, heq⟩ := h
  · exact BitVec.not_lt.2 (hle e) habove
  · exact hdistinct e1 e2 hne heq

/-- Settles O15: bytes that pass the checks are the entries of a permutation; the other bytes fail them. -/
theorem loadSboxRowLoadsExactlyPermutations : Obligations.LoadSboxRowLoadsExactlyPermutations := by
  refine fun s row => ⟨encode_loadSboxRow_sixteen row, fun hle hdistinct => ?loads, fun len hbad => ?refused⟩
  case loads =>
    have hok : rowOk (rowBytes s.operands) = true := (rowOk_iff _).2 ⟨hle, hdistinct⟩
    exact ⟨rowOf (rowBytes s.operands), rowOk_isPerm _ hok,
      fun e => (rowOf_getElem _ hle e).trans (rowBytes_getElem _ e), exec_loadSboxRow_of_rowOk row hok⟩
  case refused => exact exec_loadSboxRow_refused row (hbad.imp_right rowOk_eq_false_of_entries)

/-! ### LOAD_IV (R124, R183) -/

/-- LOAD_IV of a whole block has no further check (R124). -/
theorem exec_loadIv_eight (s : State) :
    exec (.loadIv 8) s = complete { s with iv := blockOf s.operands, ivLoaded := true } :=
  rfl

theorem exec_loadIv_of_len_ne (s : State) {len : Len} (hlen : len ≠ 8) :
    exec (.loadIv len) s = raiseError .invalidIvLength s :=
  if_pos hlen

/-- Settles O17: the length is the only check of LOAD_IV. -/
theorem loadIvSetsTheStreamState : Obligations.LoadIvSetsTheStreamState :=
  ⟨rfl, fun s => ⟨exec_loadIv_eight s, fun _ => exec_loadIv_of_len_ne s⟩⟩

end Sys2Proof.Machine
end

section
namespace Sys2Proof.Machine

/-! ### Truncation of a block (R141) -/

/-- The mask of the low `n` bits of a block. -/
theorem lowMask_getLsbD {n k : Nat} (hn : n < 64) : ((1#64 <<< n) - 1#64).getLsbD k = decide (k < n) := by
  have hlt : 2 ^ n < 2 ^ 64 := Nat.pow_lt_pow_right (by decide) hn
  have hpos : 0 < 2 ^ n := Nat.two_pow_pos n
  have hmask : ((1#64 <<< n) - 1#64).toNat = 2 ^ n - 1 := by
    rw [BitVec.toNat_sub, BitVec.toNat_shiftLeft, BitVec.toNat_ofNat, Nat.one_mod_two_pow (by decide),
      Nat.one_shiftLeft]
    omega
  rw [BitVec.getLsbD, hmask, Nat.testBit_two_pow_sub_one]

/-- The two halves of a 64-bit value join to it again, low half first (R79). -/
theorem append_extractLsb'_halves (v : BitVec 64) : v.extractLsb' 32 32 ++ v.extractLsb' 0 32 = v :=
  (BitVec.extractLsb'_append_extractLsb'_eq_extractLsb' rfl).trans BitVec.extractLsb'_eq_self

/-- Bit `k` of a truncated block: the block's own below `8 * len`, and 0 from there on (R141). -/
theorem trunc_getLsbD (x : Block) {len k : Nat} (hlen : len ≤ 8) (hk : k < 64) :
    ((trunc x len).w1 ++ (trunc x len).w0).getLsbD k = ((x.w1 ++ x.w0).getLsbD k && decide (k < 8 * len)) := by
  rw [trunc, append_extractLsb'_halves]
  obtain hlt | rfl := Nat.lt_or_eq_of_le hlen
  · rw [if_pos hlt, BitVec.getLsbD_and, lowMask_getLsbD (by omega)]
  · simp [hk]

theorem trunc_byte (x : Block) {len i : Nat} (hlen : len ≤ 8) (hi : i < 8) :
    (trunc x len).byte i = if i < len then x.byte i else 0 := by
  refine BitVec.eq_of_getLsbD_eq fun j hj => ?_
  rw [Block.byte_getLsbD _ _ _ hi hj, trunc_getLsbD x hlen (by omega)]
  obtain hkept | hzeroed := Nat.lt_or_ge i len
  · rw [if_pos hkept, Block.byte_getLsbD _ _ _ hi hj]
    simp [show 8 * i + j < 8 * len by omega]
  · rw [if_neg (by omega)]
    simp [show ¬ 8 * i + j < 8 * len by omega]

/-- Settles O58: the mask keeps the bits below `8 * len`, which are the bits of the bytes below `len`. -/
theorem truncKeepsTheFirstBytes : Obligations.TruncKeepsTheFirstBytes :=
  fun x _ _ hlen hi => trunc_byte x hlen hi

theorem trunc_trunc (x : Block) {len : Nat} (hlen : len ≤ 8) : trunc (trunc x len) len = trunc x len := by
  refine Block.ext_byte _ _ fun i hi => ?_
  rw [trunc_byte _ hlen hi, trunc_byte _ hlen hi]
  split <;> rfl

/-- Truncation to the whole block changes nothing (R141). -/
theorem trunc_eight (x : Block) : trunc x 8 = x :=
  Block.ext_byte _ _ fun i hi => by rw [trunc_byte x (by decide) hi, if_pos hi]

/-! ### The keystream on the first bytes of a block (R146 to R149) -/

/-- The first `len` bytes of `x` with the keystream block `g` XORed on, the other bytes 0: RESULT of CTR, CFB_ENC and
CFB_DEC (R146, R147, R148). -/
def xorFirst (len : Nat) (x g : Block) : Block := trunc ((trunc x len).xor g) len

theorem xorFirst_byte (x g : Block) {len i : Nat} (hlen : len ≤ 8) (hi : i < 8) :
    (xorFirst len x g).byte i = if i < len then x.byte i ^^^ g.byte i else 0 := by
  rw [xorFirst, trunc_byte _ hlen hi, Block.xor_byte, trunc_byte _ hlen hi]
  split <;> rfl

/-- The same keystream twice gives the first bytes back (R149). -/
theorem xorFirst_xorFirst (x g : Block) {len : Nat} (hlen : len ≤ 8) :
    xorFirst len (xorFirst len x g) g = trunc x len := by
  refine Block.ext_byte _ _ fun i hi => ?_
  rw [xorFirst_byte _ _ hlen hi, xorFirst_byte _ _ hlen hi, trunc_byte _ hlen hi]
  split
  · rw [BitVec.xor_assoc, BitVec.xor_self, BitVec.xor_zero]
  · rfl

/-! ### The counter step (R142) -/

/-- The test on the high word before the add is the overflow of its sum; its bit 31 is then 1 (R142). -/
theorem ctrStep_overflow_iff (w : Word) :
    (w > 0xFEFEFEFB ∧ w.getLsbD 31 = true) ↔ 2 ^ 32 ≤ w.toNat + 0x01010104 := by
  have hbit : w.getLsbD 31 = decide (2 ^ 31 ≤ w.toNat) :=
    (BitVec.msb_eq_getLsbD_last w).symm.trans (BitVec.msb_eq_decide w)
  rw [hbit, decide_eq_true_iff]
  bv_omega

/-- The counter without the extra carry (R142). -/
theorem ctrStep_plain (c : Block) : ctrStep .plain c = ⟨c.w0 + 0x01010101, c.w1 + 0x01010104⟩ :=
  if_neg (by simp)

theorem ctrStep_endAround (c : Block) : ctrStep .endAround c =
    if 2 ^ 32 ≤ c.w1.toNat + 0x01010104 then ⟨c.w0 + 0x01010101, c.w1 + 0x01010104 + 1⟩
    else ⟨c.w0 + 0x01010101, c.w1 + 0x01010104⟩ := by
  simp only [ctrStep, and_true, ctrStep_overflow_iff]

/-- Settles O59: the model's test on the high word is the overflow of its sum. -/
theorem ctrStepCarriesOnOverflow : Obligations.CtrStepCarriesOnOverflow := by
  refine fun c => ⟨fun carry => ?low, ?plain, ?endAround⟩
  case low => rw [ctrStep]; split <;> rfl
  case plain => rw [ctrStep_plain]
  case endAround =>
    rw [ctrStep_endAround]
    split
    · bv_omega
    · bv_omega

end Sys2Proof.Machine
end

section
namespace Sys2Proof.Machine

/-! ### The checks of the cipher commands (R140, R187 to R189) -/

/-- The engine is configured, with the key and the tables of `c` (R27). -/
structure State.HasCipher (s : State) (c : Cipher) : Prop where
  key : s.key = some c.key
  exp : s.exp = some c.exp

/-- The engine is configured and has an IV (R27): the checks of the commands that use the stream state pass. -/
structure State.Streams (s : State) (c : Cipher) : Prop extends s.HasCipher c where
  ivLoaded : s.ivLoaded = true

theorem State.hasCipher_of_configured {s : State} (h : s.configured = true) : ∃ c, s.HasCipher c := by
  obtain ⟨hkey, hexp⟩ := (Bool.and_eq_true _ _).mp h
  obtain ⟨k, hk⟩ := Option.isSome_iff_exists.1 hkey
  obtain ⟨e, he⟩ := Option.isSome_iff_exists.1 hexp
  exact ⟨⟨k, e⟩, hk, he⟩

theorem requireConfigured_of_hasCipher {s : State} {c : Cipher} (h : s.HasCipher c) (k : Cipher → Result) :
    requireConfigured s k = k c :=
  requireConfigured_configured s k c.key c.exp h.key h.exp

theorem requireConfigured_without_key {s : State} (k : Cipher → Result) (hkey : s.key = none) :
    requireConfigured s k = raiseError .keyNotLoaded s := by
  simp [requireConfigured, hkey]

theorem requireConfigured_without_tables {s : State} (k : Cipher → Result) (hkey : s.key ≠ none) (hexp : s.exp = none) :
    requireConfigured s k = raiseError .sboxNotReady s := by
  obtain ⟨key, hkey⟩ := Option.ne_none_iff_exists'.1 hkey
  simp [requireConfigured, hkey, hexp]

/-- On a configured engine the check goes on with some cipher. -/
theorem requireConfigured_goes_on {s : State} (k : Cipher → Result) (hkey : s.key ≠ none) (hexp : s.exp ≠ none) :
    ∃ c, requireConfigured s k = k c := by
  obtain ⟨key, hkey⟩ := Option.ne_none_iff_exists'.1 hkey
  obtain ⟨exp, hexp⟩ := Option.ne_none_iff_exists'.1 hexp
  exact ⟨⟨key, exp⟩, requireConfigured_of_hasCipher ⟨hkey, hexp⟩ k⟩

theorem requireIv_without_iv {s : State} (k : Result) (h : s.ivLoaded = false) :
    requireIv s k = raiseError .ivNotLoaded s :=
  if_neg (by simp [h])

/-- What follows the IV check of a command that ended in OK (R140). -/
theorem requireIv_of_ok {s t : State} {k : Result} (h : requireIv s k = .next t) (hok : t.err = .ok) :
    s.ivLoaded = true ∧ k = .next t := by
  obtain ⟨-, e⟩ | ⟨hiv, e⟩ := requireIv_cases s k <;> rw [e] at h
  · cases h; cases hok
  · exact ⟨hiv, h⟩

/-- The checks of CTR_INIT, and of CTR, CFB_ENC and CFB_DEC behind that of LEN (R140). -/
def requireStream (s : State) (k : Cipher → Result) : Result :=
  requireConfigured s fun c => requireIv s (k c)

theorem requireStream_of_streams {s : State} {c : Cipher} (h : s.Streams c) (k : Cipher → Result) :
    requireStream s k = k c :=
  (requireConfigured_of_hasCipher h.toHasCipher _).trans (requireIv_ok s _ h.ivLoaded)

/-- What follows the checks of a stream command that ended in OK (R140). -/
theorem requireStream_of_ok {s t : State} {k : Cipher → Result} (h : requireStream s k = .next t) (hok : t.err = .ok) :
    ∃ c, s.Streams c ∧ k c = .next t := by
  obtain ⟨c, hkey, hexp, hnext⟩ := requireConfigured_of_ok h hok
  obtain ⟨hiv, hnext⟩ := requireIv_of_ok hnext hok
  exact ⟨c, ⟨⟨hkey, hexp⟩, hiv⟩, hnext⟩

/-- A cipher command with no operand error is its configuration checks and what follows them (R140). -/
theorem exec_cipher_checks (i : Instr) (s : State) (hwf : i.wf = true) (hcipher : i.usesCipher = true)
    (hwhole : i.needsWholeBlock = true → i.len = 0 ∨ i.len = 8) :
    ∃ k : Cipher → Result, exec i s = requireConfigured s fun c => if i.usesIv then requireIv s (k c) else k c := by
  cases i with
  | ctrInit => exact ⟨fun c => complete { s with iv := encrypt32 c s.iv }, rfl⟩
  | ecbEnc len | ecbDec len | macUpdate len =>
    have hlen : ¬ (1 ≤ len ∧ len ≤ 7) := by
      obtain hzero | height := hwhole rfl
      · simp only [Instr.len] at hzero; bv_omega
      · simp only [Instr.len] at height; bv_omega
    exact ⟨_, (requireBlockLen_ok len s _ (of_decide_eq_true hwf)).trans (requireAligned_ok len s _ hlen)⟩
  | ctr len | cfbEnc len | cfbDec len => exact ⟨_, requireBlockLen_ok len s _ (of_decide_eq_true hwf)⟩
  | _ => exact absurd hcipher Bool.false_ne_true

/-- Settles O34: the configuration checks are the first thing such a command does, in the order of R140. -/
theorem unconfiguredCipherCommandsReport : Obligations.UnconfiguredCipherCommandsReport := by
  intro i s hwf hcipher hwhole
  obtain ⟨k, hexec⟩ := exec_cipher_checks i s hwf hcipher hwhole
  rw [hexec]
  refine ⟨requireConfigured_without_key _, requireConfigured_without_tables _, fun hkey hexp hiv huses => ?_⟩
  obtain ⟨c, hc⟩ := requireConfigured_goes_on (fun c => if i.usesIv then requireIv s (k c) else k c) hkey hexp
  rw [hc, if_pos huses]
  exact requireIv_without_iv _ hiv

/-! ### ECB, CTR_INIT and LEN = 0 (R143 to R145, R149) -/

/-- Settles O18: with the key and tables present the block is the last thing the two commands read. -/
theorem ecbWritesTheResultBlock : Obligations.EcbWritesTheResultBlock := by
  intro s k e hkey hexp
  have hcipher : s.HasCipher ⟨k, e⟩ := ⟨hkey, hexp⟩
  exact ⟨(exec_ecbEnc_eight s).trans (requireConfigured_of_hasCipher hcipher _),
    (exec_ecbDec_eight s).trans (requireConfigured_of_hasCipher hcipher _)⟩

theorem exec_ctrInit (s : State) :
    exec .ctrInit s = requireStream s fun c => complete { s with iv := encrypt32 c s.iv } :=
  rfl

/-- Settles O19: the checks pass, or CTR_INIT reports as every cipher command does. -/
theorem ctrInitEncryptsTheIv : Obligations.CtrInitEncryptsTheIv := by
  refine ⟨rfl, fun s => ⟨fun k e hkey hexp hiv => ?_, ?_⟩⟩
  · have hstream : s.Streams ⟨k, e⟩ := ⟨⟨hkey, hexp⟩, hiv⟩
    exact (exec_ctrInit s).trans (requireStream_of_streams hstream _)
  · obtain ⟨hnokey, hnotables, hnoiv⟩ := unconfiguredCipherCommandsReport .ctrInit s rfl rfl (fun h => nomatch h)
    exact ⟨hnokey, hnotables, fun hkey hexp hiv => hnoiv hkey hexp hiv rfl⟩

/-- Settles O23: behind the checks of a block command, LEN = 0 leads to completion on the state as it stands. -/
theorem zeroLengthChangesOnlyErr : Obligations.ZeroLengthChangesOnlyErr := by
  intro s i hconf hi hiv
  obtain ⟨c, hcipher⟩ := State.hasCipher_of_configured hconf
  have block : requireConfigured s (fun _ => complete s) = complete s := requireConfigured_of_hasCipher hcipher _
  have streams (h : s.ivLoaded = true) : requireStream s (fun _ => complete s) = complete s :=
    requireStream_of_streams ⟨hcipher, h⟩ _
  simp only [List.mem_cons, List.not_mem_nil, or_false] at hi
  obtain rfl | rfl | rfl | rfl | rfl | rfl := hi
  exacts [block, block, block, streams (hiv rfl), streams (hiv rfl), streams (hiv rfl)]

/-! ### CTR, CFB_ENC and CFB_DEC of one to eight bytes (R146 to R148) -/

section
variable (s : State) {len : Len} (h1 : 1 ≤ len) (h8 : len ≤ 8)
include h1 h8

theorem exec_ctr_of_len : exec (.ctr len) s = requireStream s fun c => complete
    { s with result := xorFirst len.toNat (blockOf s.operands) (encrypt32 c (ctrStep Config.ctrCarry s.iv)),
             iv := ctrStep Config.ctrCarry s.iv } := by
  simp only [exec, execCtr, requireBlockLen_ok len s _ h8, if_neg (len_ne_zero len h1)]
  rfl

theorem exec_cfbEnc_of_len : exec (.cfbEnc len) s = requireStream s fun c => complete
    { s with result := xorFirst len.toNat (blockOf s.operands) (encrypt32 c s.iv),
             iv := (trunc (blockOf s.operands) len.toNat).xor (encrypt32 c s.iv) } := by
  simp only [exec, execCfbEnc, requireBlockLen_ok len s _ h8, if_neg (len_ne_zero len h1)]
  rfl

theorem exec_cfbDec_of_len : exec (.cfbDec len) s = requireStream s fun c => complete
    { s with result := xorFirst len.toNat (blockOf s.operands) (encrypt32 c s.iv),
             iv := trunc (blockOf s.operands) len.toNat } := by
  simp only [exec, execCfbDec, requireBlockLen_ok len s _ h8, if_neg (len_ne_zero len h1)]
  rfl

end

/-- Settles O20: RESULT is the operand block with the keystream of the advanced counter on its first bytes. -/
theorem ctrAdvancesThenEncryptsTheCounter : Obligations.CtrAdvancesThenEncryptsTheCounter := by
  intro s k e len hkey hexp hiv h1 h8
  have hstream : s.Streams ⟨k, e⟩ := ⟨⟨hkey, hexp⟩, hiv⟩
  exact ⟨_, (exec_ctr_of_len s h1 h8).trans (requireStream_of_streams hstream _), rfl,
    fun i hi => xorFirst_byte _ _ (len_toNat_le len h8) hi, rfl⟩

/-- Settles O21: RESULT is the new IV truncated, and the new IV the padded operand block with the keystream on it. -/
theorem cfbEncKeepsTheWholeBlock : Obligations.CfbEncKeepsTheWholeBlock := by
  intro s k e len hkey hexp hiv h1 h8
  have hstream : s.Streams ⟨k, e⟩ := ⟨⟨hkey, hexp⟩, hiv⟩
  have hlen := len_toNat_le len h8
  refine ⟨_, (exec_cfbEnc_of_len s h1 h8).trans (requireStream_of_streams hstream _), fun i hi => ?_,
    fun i hi => trunc_byte _ hlen hi, rfl⟩
  rw [Block.xor_byte, trunc_byte _ hlen hi]
  rfl

/-- Settles O22: the new IV is the padded operand block, and RESULT its first bytes with the keystream on them. -/
theorem cfbDecKeepsThePaddedInput : Obligations.CfbDecKeepsThePaddedInput := by
  intro s k e len hkey hexp hiv h1 h8
  have hstream : s.Streams ⟨k, e⟩ := ⟨⟨hkey, hexp⟩, hiv⟩
  have hlen := len_toNat_le len h8
  refine ⟨_, (exec_cfbDec_of_len s h1 h8).trans (requireStream_of_streams hstream _),
    fun i hi => trunc_byte _ hlen hi, fun i hi => ?_, rfl⟩
  rw [trunc_byte _ hlen hi]
  refine (xorFirst_byte _ _ hlen hi).trans ?_
  split <;> rfl

/-- Settles O27: the decryptor's new IV is its operand block truncated, the RESULT the encryptor truncated already. -/
theorem partialCfbBlockIvs : Obligations.PartialCfbBlockIvs := by
  intro s t u v len henc hok h1 h7 hblock hdec hok'
  have h8 : len ≤ 8 := by bv_omega
  rw [exec_cfbEnc_of_len s h1 h8] at henc
  rw [exec_cfbDec_of_len u h1 h8] at hdec
  obtain ⟨c, -, hdone⟩ := requireStream_of_ok henc hok
  obtain ⟨c', -, hdone'⟩ := requireStream_of_ok hdec hok'
  have hresult : t.result = trunc t.iv len.toNat := by cases hdone; rfl
  have hv : v.iv = trunc (blockOf u.operands) len.toNat := by cases hdone'; rfl
  have hkept : v.iv = t.result := by
    rw [hv, hblock, hresult, trunc_trunc _ (len_toNat_le len h8)]
  exact ⟨hkept, hkept.trans hresult⟩

/-! ### Sequences of blocks (R149) -/

/-- `enc` on `msg` from `s` ends in `t`, and `dec` with the same LENs on the RESULTs of that run, from `u`, gives `plain`
and ends in `v` (R149). -/
def StreamsUndo (enc dec : Len → Instr) (msg : List (Len × Block)) (plain : List Block) (s u t v : State) : Prop :=
  ∃ out, stream enc msg s = some (out, t) ∧ stream dec ((msg.map Prod.fst).zip out) u = some (plain, v)

theorem streamsUndo_nil (enc dec : Len → Instr) (s u : State) : StreamsUndo enc dec [] [] s u s u :=
  ⟨[], rfl, rfl⟩

theorem stream_cons {mk : Len → Instr} {len : Len} {x : Block} {rest : List (Len × Block)} {out : List Block}
    {s s' t : State} (h : exec (mk len) (s.latchBlock (mk len) x) = .next s') (hrest : stream mk rest s' = some (out, t)) :
    stream mk ((len, x) :: rest) s = some (s'.result :: out, t) := by
  rw [stream, h]
  simp [hrest]

/-- One block undone, before a sequence undone (R149). -/
theorem streamsUndo_cons {enc dec : Len → Instr} {len : Len} {x : Block} {rest : List (Len × Block)}
    {plain : List Block} {y : Block} {s u s' u' t v : State} (henc : exec (enc len) (s.latchBlock (enc len) x) = .next s')
    (hdec : exec (dec len) (u.latchBlock (dec len) s'.result) = .next u')
    (hy : u'.result = y) (hrest : StreamsUndo enc dec rest plain s' u' t v) :
    StreamsUndo enc dec ((len, x) :: rest) (y :: plain) s u t v := by
  subst hy
  obtain ⟨out, hout, hplain⟩ := hrest
  exact ⟨s'.result :: out, stream_cons henc hout, stream_cons hdec hplain⟩

/-- Both ends of a sequence: the same cipher and the same stream state (R149). -/
structure SameStream (c : Cipher) (s u : State) : Prop where
  left : s.Streams c
  right : u.Streams c
  iv : u.iv = s.iv

theorem sameStream_of_configured {s u : State} (hconf : s.configured = true) (hiv : s.ivLoaded = true)
    (hkey : u.key = s.key) (hexp : u.exp = s.exp) (hivs : u.iv = s.iv) (huiv : u.ivLoaded = true) :
    ∃ c, SameStream c s u := by
  obtain ⟨c, hc⟩ := State.hasCipher_of_configured hconf
  exact ⟨c, ⟨hc, hiv⟩, ⟨⟨hkey.trans hc.key, hexp.trans hc.exp⟩, huiv⟩, hivs⟩

/-- Command `i` on the block `x` completes with RESULT `r` and IV `y`, and the engine stays as a stream needs it. -/
def StreamStep (c : Cipher) (i : Instr) (s : State) (x r y : Block) (t : State) : Prop :=
  exec i (s.latchBlock i x) = .next t ∧ t.Streams c ∧ t.result = r ∧ t.iv = y

theorem streamStep_of_exec {c : Cipher} {i : Instr} {s : State} {x : Block} {r y : Cipher → Block} (h : s.Streams c)
    (hexec : exec i (s.latchBlock i x) = requireStream (s.latchBlock i x) fun c =>
      complete { s.latchBlock i x with result := r c, iv := y c }) :
    ∃ t, StreamStep c i s x (r c) (y c) t := by
  have hlatched : (s.latchBlock i x).Streams c := ⟨⟨h.key, h.exp⟩, h.ivLoaded⟩
  exact ⟨_, hexec.trans (requireStream_of_streams hlatched _), ⟨⟨h.key, h.exp⟩, h.ivLoaded⟩, rfl, rfl⟩

section
variable {c : Cipher} {s : State} (h : s.Streams c) {len : Len} (h1 : 1 ≤ len) (h8 : len ≤ 8) (x : Block)
include h h1 h8

theorem ctr_streamStep : ∃ t, StreamStep c (.ctr len) s x
    (xorFirst len.toNat x (encrypt32 c (ctrStep Config.ctrCarry s.iv))) (ctrStep Config.ctrCarry s.iv) t := by
  have hexec := exec_ctr_of_len (s.latchBlock (.ctr len) x) h1 h8
  rw [State.latchBlock_operands] at hexec
  exact streamStep_of_exec h hexec

theorem cfbEnc_streamStep : ∃ t, StreamStep c (.cfbEnc len) s x
    (xorFirst len.toNat x (encrypt32 c s.iv)) ((trunc x len.toNat).xor (encrypt32 c s.iv)) t := by
  have hexec := exec_cfbEnc_of_len (s.latchBlock (.cfbEnc len) x) h1 h8
  rw [State.latchBlock_operands] at hexec
  exact streamStep_of_exec h hexec

theorem cfbDec_streamStep : ∃ t, StreamStep c (.cfbDec len) s x
    (xorFirst len.toNat x (encrypt32 c s.iv)) (trunc x len.toNat) t := by
  have hexec := exec_cfbDec_of_len (s.latchBlock (.cfbDec len) x) h1 h8
  rw [State.latchBlock_operands] at hexec
  exact streamStep_of_exec h hexec

end

/-! ### CTR and CFB undone (R149) -/

theorem ctr_streamsUndo {c : Cipher} (msg : List (Len × Block)) {s u : State} (h : SameStream c s u)
    (hlen : ∀ m ∈ msg, 1 ≤ m.1 ∧ m.1 ≤ 8) :
    ∃ t v, StreamsUndo .ctr .ctr msg (msg.map fun m => trunc m.2 m.1.toNat) s u t v ∧ v.iv = t.iv := by
  induction msg generalizing s u with
  | nil => exact ⟨s, u, streamsUndo_nil _ _ s u, h.iv⟩
  | cons m rest ih =>
    obtain ⟨len, x⟩ := m
    obtain ⟨⟨h1, h8⟩, hrest⟩ := List.forall_mem_cons.1 hlen
    obtain ⟨s', henc, hs', hresult, hiv⟩ := ctr_streamStep h.left h1 h8 x
    obtain ⟨u', hdec, hu', hplain, hiv'⟩ := ctr_streamStep h.right h1 h8 s'.result
    have hsame : u'.iv = s'.iv := by rw [hiv', hiv, h.iv]
    have hx : u'.result = trunc x len.toNat := by
      rw [hplain, hresult, h.iv, xorFirst_xorFirst _ _ (len_toNat_le len h8)]
    obtain ⟨t, v, hundo, hlast⟩ := ih ⟨hs', hu', hsame⟩ hrest
    exact ⟨t, v, streamsUndo_cons henc hdec hx hundo, hlast⟩

/-- Settles O25, by induction on the blocks: both runs go through the same counters, and the same keystream twice gives a
truncated block back. -/
theorem ctrStreamIsItsOwnInverse : Obligations.CtrStreamIsItsOwnInverse := by
  intro s u msg hconf hiv hkey hexp hivs huiv hlen
  obtain ⟨c, hsame⟩ := sameStream_of_configured hconf hiv hkey hexp hivs huiv
  obtain ⟨t, v, ⟨out, hout, hplain⟩, hlast⟩ := ctr_streamsUndo msg hsame hlen
  exact ⟨out, t, v, hout, hplain, hlast⟩

/-- One block of CFB_ENC undone by CFB_DEC: the truncated block, and after a whole block the same stream state (R149). -/
theorem cfb_step_undone {c : Cipher} {s u : State} (h : SameStream c s u) {len : Len} (h1 : 1 ≤ len) (h8 : len ≤ 8)
    (x : Block) : ∃ s' u', exec (.cfbEnc len) (s.latchBlock (.cfbEnc len) x) = .next s' ∧
      exec (.cfbDec len) (u.latchBlock (.cfbDec len) s'.result) = .next u' ∧ u'.result = trunc x len.toNat ∧
      (len = 8 → SameStream c s' u') := by
  obtain ⟨s', henc, hs', hresult, hiv⟩ := cfbEnc_streamStep h.left h1 h8 x
  obtain ⟨u', hdec, hu', hplain, hiv'⟩ := cfbDec_streamStep h.right h1 h8 s'.result
  refine ⟨s', u', henc, hdec, ?_, fun height => ⟨hs', hu', ?_⟩⟩
  · rw [hplain, hresult, h.iv, xorFirst_xorFirst _ _ (len_toNat_le len h8)]
  · subst height
    calc u'.iv = trunc s'.result 8 := hiv'
      _ = s'.result := trunc_eight _
      _ = trunc s'.iv 8 := by rw [hresult, hiv]; rfl
      _ = s'.iv := trunc_eight _

theorem cfb_streamsUndo {c : Cipher} (blocks : List Block) {len : Len} (h1 : 1 ≤ len) (h8 : len ≤ 8) (final : Block)
    {s u : State} (h : SameStream c s u) :
    ∃ t v, StreamsUndo .cfbEnc .cfbDec ((blocks.map fun x => (8, x)) ++ [(len, final)])
      (blocks ++ [trunc final len.toNat]) s u t v := by
  induction blocks generalizing s u with
  | nil =>
    obtain ⟨t, v, henc, hdec, hlast, -⟩ := cfb_step_undone h h1 h8 final
    exact ⟨t, v, streamsUndo_cons henc hdec hlast (streamsUndo_nil _ _ t v)⟩
  | cons x blocks ih =>
    obtain ⟨s', u', henc, hdec, hplain, hsame⟩ := cfb_step_undone h (len := 8) (by decide) (by decide) x
    obtain ⟨t, v, hundo⟩ := ih (hsame rfl)
    have hx : u'.result = x := hplain.trans (trunc_eight x)
    exact ⟨t, v, streamsUndo_cons henc hdec hx hundo⟩

/-- Settles O26, by induction on the whole blocks, which keep the two stream states equal; the last block need not. -/
theorem cfbDecStreamUndoesCfbEncStream : Obligations.CfbDecStreamUndoesCfbEncStream := by
  intro s u blocks len final hconf hiv hkey hexp hivs huiv h1 h8
  obtain ⟨c, hsame⟩ := sameStream_of_configured hconf hiv hkey hexp hivs huiv
  obtain ⟨t, v, out, hout, hplain⟩ := cfb_streamsUndo blocks h1 h8 final hsame
  have hlens : ((blocks.map fun x => ((8 : Len), x)) ++ [(len, final)]).map Prod.fst =
      (blocks.map fun _ => (8 : Len)) ++ [len] := by
    simp [Function.comp_def]
  exact ⟨out, t, v, hout, hlens ▸ hplain⟩

end Sys2Proof.Machine
end

section
namespace Sys2Proof.Machine

/-! ### MAC_RESET, MAC_LOAD and MAC_UPDATE of a whole block (R170 to R172) -/

theorem exec_macReset (s : State) : exec .macReset s = complete { s with mac := ⟨0, 0⟩ } := rfl

theorem exec_macLoad (s : State) : exec .macLoad s = complete { s with mac := blockOf s.operands } := rfl

/-- LEN = 8 passes the two checks of LEN, which leaves the configuration checks (R171). -/
theorem exec_macUpdate_eight (s : State) : exec (.macUpdate 8) s =
    requireConfigured s fun c => complete { s with mac := compress16 c (s.mac.xor (blockOf s.operands)) } :=
  rfl

/-- Settles O28: with the key and tables present the compression is all that is left of MAC_UPDATE. -/
theorem macUpdateCompressesTheBlock : Obligations.MacUpdateCompressesTheBlock := by
  intro s k e hkey hexp
  have hcipher : s.HasCipher ⟨k, e⟩ := ⟨hkey, hexp⟩
  exact (exec_macUpdate_eight s).trans (requireConfigured_of_hasCipher hcipher _)

/-- Settles O29: neither command has a check, and the operand (0, 0) is the block MAC_RESET writes. -/
theorem macResetAndLoadWriteTheAccumulator : Obligations.MacResetAndLoadWriteTheAccumulator := by
  refine ⟨rfl, rfl, fun s => ⟨exec_macReset s, exec_macLoad s, fun h0 h1 => ?_⟩⟩
  have hzero : blockOf s.operands = ⟨0, 0⟩ := congrArg₂ Block.mk h0 h1
  rw [exec_macLoad, exec_macReset, hzero]

/-! ### Sequences of MAC_UPDATE (R174) -/

/-- The accumulator `m` after the blocks `xs` under the cipher `c` (R171, R174). -/
def macOf (c : Cipher) (m : Block) (xs : List Block) : Block :=
  xs.foldl (fun m x => compress16 c (m.xor x)) m

theorem macOf_append (c : Cipher) (m : Block) (a b : List Block) : macOf c m (a ++ b) = macOf c (macOf c m a) b :=
  List.foldl_append

/-- The engine is configured with `c` and its accumulator is `m`: all that a MAC_UPDATE reads besides its block (R174). -/
structure State.Accumulates (s : State) (c : Cipher) (m : Block) : Prop extends s.HasCipher c where
  mac : s.mac = m

/-- One latched MAC_UPDATE absorbs its block (R171). -/
theorem exec_macUpdate_latched {s : State} {c : Cipher} {m : Block} (h : s.Accumulates c m) (x : Block) :
    ∃ t, exec (.macUpdate 8) (s.latchBlock (.macUpdate 8) x) = .next t ∧ t.Accumulates c (compress16 c (m.xor x)) := by
  have hlatched : (s.latchBlock (.macUpdate 8) x).HasCipher c := ⟨h.key, h.exp⟩
  refine ⟨_, (exec_macUpdate_eight _).trans (requireConfigured_of_hasCipher hlatched _), ⟨h.key, h.exp⟩, ?_⟩
  rw [State.latchBlock_operands, State.latchBlock_mac, h.mac]

/-- Whole blocks take the accumulator through `macOf`, whatever else the state holds (R174). -/
theorem stream_macUpdate {c : Cipher} (xs : List Block) {s : State} {m : Block} (h : s.Accumulates c m) :
    ∃ out t, stream .macUpdate (xs.map fun x => (8, x)) s = some (out, t) ∧ t.Accumulates c (macOf c m xs) := by
  induction xs generalizing s m with
  | nil => exact ⟨[], s, rfl, h⟩
  | cons x xs ih =>
    obtain ⟨s', hexec, hs'⟩ := exec_macUpdate_latched h x
    obtain ⟨out, t, hrest, ht⟩ := ih hs'
    exact ⟨s'.result :: out, t, stream_cons hexec hrest, ht⟩

/-- Settles O30: all three runs are `macOf` of the same cipher and accumulator, and `macOf` is a fold. -/
theorem macDependsOnlyOnKeyTablesAndBlocks : Obligations.MacDependsOnlyOnKeyTablesAndBlocks := by
  intro s u a b hconf hkey hexp hmac
  obtain ⟨c, hc⟩ := State.hasCipher_of_configured hconf
  have hs : s.Accumulates c s.mac := ⟨hc, rfl⟩
  have hu : u.Accumulates c s.mac := ⟨⟨hkey.trans hc.key, hexp.trans hc.exp⟩, hmac⟩
  obtain ⟨outA, t, hrunA, ht⟩ := stream_macUpdate a hs
  obtain ⟨outB, v, hrunB, hv⟩ := stream_macUpdate b ht
  obtain ⟨outAB, w, hrunAB, hw⟩ := stream_macUpdate (a ++ b) hu
  refine ⟨outA, t, outB, v, outAB, w, hrunA, hrunB, hrunAB, ?_⟩
  calc w.mac
    _ = macOf c s.mac (a ++ b) := hw.mac
    _ = macOf c (macOf c s.mac a) b := macOf_append c s.mac a b
    _ = v.mac := hv.mac.symm

end Sys2Proof.Machine
end

section
namespace Sys2Proof.Machine

/-! ### What every command answers (R190, R192) -/

/-- Settles O10: a failed check raises an error, which is a next state, and no effect of a command leaves one in flight. -/
theorem everyCommandCompletes : Obligations.EveryCommandCompletes := by
  intro i s
  obtain ⟨t, ht⟩ := exec_completes i s
  exact ⟨t, ht, effect_pending i s t (exec_effect i s t ht)⟩

/-- Of the effects of a command only the raising of an error leaves an error in ERR, and it is all that effect does. -/
theorem effect_of_error {i : Instr} {s t : State} (h : Effect i s t) (herr : t.err ≠ .ok) : t = s.raised t.err := by
  cases h with
  | error c hc => rfl
  | _ => exact absurd rfl herr

/-- Settles O33: a latched word that is no command is reported by the operation by which a command reports an error. -/
theorem errorsArePrecise : Obligations.ErrorsArePrecise := by
  refine ⟨fun i s t h herr => effect_of_error (exec_effect i s t h) herr, fun s t hbusy h herr => ?_⟩
  obtain ⟨hidle, -⟩ | ⟨p, -, ⟨e, -, rfl⟩ | ⟨i, -, he⟩⟩ := engineTurn_cases s t h
  · simp [State.busy, hidle] at hbusy
  · rfl
  · exact effect_of_error he herr

/-! ### The order of the checks (R191)

`Checks i s l r` says that `r` is the answer of a command that checks for the codes of `l` in turn. Each command so checks for
`checkedCodes i`: they are the only codes that can apply to it, and they stand in the order of R191. -/

/-- `r` raises the first code of `l` that applies to `i` in `s`, or completes if the first is OK. -/
inductive Checks (i : Instr) (s : State) : List ErrCode → Result → Prop where
  | completed (l : List ErrCode) (u : State) : Checks i s (.ok :: l) (complete u)
  | raised {c : ErrCode} {l : List ErrCode} (h : c.Applies i s) : Checks i s (c :: l) (raiseError c s)
  | passed {c : ErrCode} {l : List ErrCode} {r : Result} (h : ¬ c.Applies i s) (hr : Checks i s l r) :
      Checks i s (c :: l) r

/-- The codes a command checks for, in its own order, and OK after them (R120 to R124, R143 to R148, R170 to R172). -/
def checkedCodes : Instr → List ErrCode
  | .nop | .macReset | .macLoad => [.ok]
  | .loadKey _ => [.invalidKeyLength, .keyLocked, .ok]
  | .loadSboxRow _ _ => [.invalidSboxRow, .ok]
  | .expand => [.sboxNotReady, .ok]
  | .loadIv _ => [.invalidIvLength, .ok]
  | .ctrInit => [.keyNotLoaded, .sboxNotReady, .ivNotLoaded, .ok]
  | .ecbEnc _ | .ecbDec _ | .macUpdate _ => [.illegalCommand, .invalidBlockAlignment, .keyNotLoaded, .sboxNotReady, .ok]
  | .ctr _ | .cfbEnc _ | .cfbDec _ => [.illegalCommand, .keyNotLoaded, .sboxNotReady, .ivNotLoaded, .ok]

section
variable {i : Instr} {s : State} {l : List ErrCode}

/-- The code in ERR is the first of the list that applies. -/
theorem checks_first {r : Result} (h : Checks i s l r) {t : State} (ht : r = .next t) :
    ∃ before after, l = before ++ t.err :: after ∧ t.err.Applies i s ∧ ∀ d ∈ before, ¬ d.Applies i s := by
  induction h with
  | completed l u => cases ht; exact ⟨[], l, rfl, trivial, by simp⟩
  | @raised c l h => cases ht; exact ⟨[], l, rfl, h, by simp⟩
  | @passed c l r h _ ih =>
    obtain ⟨before, after, rfl, happlies, hbefore⟩ := ih ht
    exact ⟨c :: before, after, rfl, happlies, List.forall_mem_cons.2 ⟨h, hbefore⟩⟩

/-- Codes that do not apply can be left out of the checks. -/
theorem checks_of_filter {p : ErrCode → Bool} (hp : ∀ c : ErrCode, c.Applies i s → p c = true) {r : Result}
    (h : Checks i s (l.filter p) r) : Checks i s l r := by
  induction l with
  | nil => exact h
  | cons c l ih =>
    by_cases hc : p c = true
    · rw [List.filter_cons_of_pos hc] at h
      cases h with
      | completed _ u => exact .completed l u
      | raised h => exact .raised h
      | passed h hr => exact .passed h (ih hr)
    · rw [List.filter_cons_of_neg hc] at h
      exact .passed (fun happlies => hc (hp c happlies)) (ih h)

/-! ### The checks of each command -/

/-- Every command checks in the order of R191. -/
theorem errorPriority_filter_checkedCodes (i : Instr) :
    errorPriority.filter (· ∈ checkedCodes i) = checkedCodes i := by
  cases i <;> rfl

/-- No other code can apply to the command. -/
theorem ErrCode.Applies.mem_checkedCodes {c : ErrCode} (h : c.Applies i s) : c ∈ checkedCodes i := by
  cases c with
  | ok => cases i <;> simp [checkedCodes]
  | invalidKeyLength | invalidIvLength | keyLocked => obtain ⟨_, rfl, -⟩ := h; simp [checkedCodes]
  | invalidSboxRow => obtain ⟨_, _, rfl, -⟩ := h; simp [checkedCodes]
  | illegalCommand | invalidBlockAlignment | keyNotLoaded | sboxNotReady | ivNotLoaded =>
    revert h
    cases i <;> simp [ErrCode.Applies, checkedCodes, Instr.wf, Instr.needsWholeBlock, Instr.usesCipher, Instr.usesIv]

/-- A check is a condition that holds exactly when its code applies. -/
theorem checks_ite {c : ErrCode} {p : Prop} [Decidable p] {k : Result} (hp : c.Applies i s ↔ p) (hk : Checks i s l k) :
    Checks i s (c :: l) (if p then raiseError c s else k) := by
  split
  next h => exact .raised (hp.2 h)
  next h => exact .passed (mt hp.1 h) hk

theorem checks_requireBlockLen {k : Result} (len : Len) (hwf : i.wf = blockLenOk len) (hk : Checks i s l k) :
    Checks i s (.illegalCommand :: l) (requireBlockLen len s k) :=
  checks_ite (by simp [ErrCode.Applies, hwf, blockLenOk]) hk

theorem checks_requireAligned {k : Result} (hwhole : i.needsWholeBlock = true) (hk : Checks i s l k) :
    Checks i s (.invalidBlockAlignment :: l) (requireAligned i.len s k) :=
  checks_ite (and_iff_right hwhole) hk

theorem checks_requireIv {k : Result} (huses : i.usesIv = true) (hk : Checks i s l k) :
    Checks i s (.ivNotLoaded :: l) (requireIv s k) := by
  obtain ⟨hiv, e⟩ | ⟨hiv, e⟩ := requireIv_cases s k <;> rw [e]
  · exact .raised ⟨huses, hiv⟩
  · exact .passed (by simp [ErrCode.Applies, hiv]) hk

/-- Among the cipher commands, SBOX_NOT_READY applies with the tables missing (R188). -/
theorem sboxNotReady_applies_iff (hcipher : i.usesCipher = true) :
    ErrCode.sboxNotReady.Applies i s ↔ s.expValid = false := by
  have hexpand : i ≠ .expand := by rintro rfl; cases hcipher
  simp [ErrCode.Applies, hcipher, hexpand]

theorem checks_requireConfigured {k : Cipher → Result} (hcipher : i.usesCipher = true) (hk : ∀ c, Checks i s l (k c)) :
    Checks i s (.keyNotLoaded :: .sboxNotReady :: l) (requireConfigured s k) := by
  obtain ⟨hkey, e⟩ | ⟨key, hkey, hexp, e⟩ | ⟨key, exp, hkey, hexp, e⟩ := requireConfigured_cases s k <;> rw [e]
  · exact .raised ⟨hcipher, s.keyLoaded_eq_false_iff.2 hkey⟩
  · exact .passed (by simp [ErrCode.Applies, State.keyLoaded, hkey])
      (.raised ((sboxNotReady_applies_iff hcipher).2 (by simp [State.expValid, hexp])))
  · exact .passed (by simp [ErrCode.Applies, State.keyLoaded, hkey])
      (.passed (by simp [sboxNotReady_applies_iff hcipher, State.expValid, hexp]) (hk _))

/-- What follows the checks of a block command, whatever its LEN. -/
theorem checks_complete_ite {p : Prop} [Decidable p] (u v : State) :
    Checks i s (.ok :: l) (if p then complete u else complete v) := by
  split
  · exact .completed l u
  · exact .completed l v

end

/-- The bytes fail the checks of LOAD_SBOX_ROW by an entry above 15 or by two equal entries (R185). -/
theorem rowOk_eq_false_iff (v : Vector Byte 16) :
    rowOk v = false ↔ (∃ e : Fin 16, v[e] > 15) ∨ ∃ e1 e2 : Fin 16, e1 ≠ e2 ∧ v[e1] = v[e2] := by
  simp only [← Bool.not_eq_true, rowOk_iff, not_and_or, not_forall, BitVec.not_le, not_not, exists_prop, gt_iff_lt, ne_eq]

theorem invalidSboxRow_applies_iff (row : RowIndex) (len : Len) (s : State) :
    ErrCode.invalidSboxRow.Applies (.loadSboxRow row len) s ↔ len ≠ 16 ∨ rowOk (rowBytes s.operands) = false := by
  rw [rowOk_eq_false_iff]
  constructor
  · rintro ⟨_, _, ⟨⟩, h⟩
    exact h
  · exact fun h => ⟨row, len, rfl, h⟩

/-- EXPAND finds all rows loaded unless SBOX_NOT_READY applies (R123, R188). -/
theorem allRows_eq_none_iff_applies (s : State) :
    allRows s.sbox = none ↔ ErrCode.sboxNotReady.Applies .expand s := by
  simp [allRows_eq_none, ErrCode.Applies, State.rowLoaded, Instr.usesCipher]

/-- Every command checks for the codes it can report and completes if none applies. -/
theorem exec_checks (i : Instr) (s : State) : Checks i s (checkedCodes i) (exec i s) := by
  cases i with
  | nop | macReset | macLoad => exact .completed [] _
  | loadKey len =>
    exact checks_ite (by simp [ErrCode.Applies]) (checks_ite (by simp [ErrCode.Applies]) (.completed [] _))
  | loadSboxRow row len =>
    by_cases hbad : len ≠ 16 ∨ rowOk (rowBytes s.operands) = false
    · rw [exec_loadSboxRow_refused row hbad]
      exact .raised ((invalidSboxRow_applies_iff row len s).2 hbad)
    · obtain ⟨rfl, hok⟩ : len = 16 ∧ rowOk (rowBytes s.operands) = true := by simpa using hbad
      rw [exec_loadSboxRow_of_rowOk row hok]
      exact .passed (mt (invalidSboxRow_applies_iff row 16 s).1 hbad) (.completed [] _)
  | expand =>
    rw [exec, execExpand]
    cases hrows : allRows s.sbox with
    | none => exact .raised ((allRows_eq_none_iff_applies s).1 hrows)
    | some m => exact .passed (mt (allRows_eq_none_iff_applies s).2 (by simp [hrows])) (.completed [] _)
  | loadIv len => exact checks_ite (by simp [ErrCode.Applies]) (.completed [] _)
  | ctrInit =>
    rw [exec, execCtrInit]
    exact checks_requireConfigured rfl fun c => checks_requireIv rfl (.completed [] _)
  | ecbEnc len | ecbDec len | macUpdate len =>
    exact checks_requireBlockLen len rfl (checks_requireAligned rfl
      (checks_requireConfigured rfl fun c => checks_complete_ite _ _))
  | ctr len | cfbEnc len | cfbDec len =>
    exact checks_requireBlockLen len rfl
      (checks_requireConfigured rfl fun c => checks_requireIv rfl (checks_complete_ite _ _))

/-- The reported code is the first of R191 that applies. -/
theorem exec_isReported {i : Instr} {s t : State} (h : exec i s = .next t) : t.err.IsReported i s := by
  have hall : Checks i s errorPriority (exec i s) := by
    refine checks_of_filter (p := (· ∈ checkedCodes i)) (fun c hc => decide_eq_true hc.mem_checkedCodes) ?_
    rw [errorPriority_filter_checkedCodes]
    exact exec_checks i s
  exact checks_first hall h

/-- Behind the checks of a block command, LEN = 0 leads to completion on the state as it stands (R191). -/
theorem exec_zeroLength_of_ok {i : Instr} {s t : State}
    (hi : i ∈ [Instr.ecbEnc 0, .ecbDec 0, .macUpdate 0, .ctr 0, .cfbEnc 0, .cfbDec 0]) (h : exec i s = .next t)
    (hok : t.err = .ok) : t = s.completed := by
  have block (hb : requireConfigured s (fun _ => complete s) = .next t) : t = s.completed := by
    obtain ⟨-, -, -, hdone⟩ := requireConfigured_of_ok hb hok
    cases hdone; rfl
  have streams (hs : requireStream s (fun _ => complete s) = .next t) : t = s.completed := by
    obtain ⟨-, -, hdone⟩ := requireStream_of_ok hs hok
    cases hdone; rfl
  simp only [List.mem_cons, List.not_mem_nil, or_false] at hi
  obtain rfl | rfl | rfl | rfl | rfl | rfl := hi
  exacts [block h, block h, block h, streams h, streams h, streams h]

/-- ERRS is set by an error and kept by a completion (R14, R191). -/
theorem effect_errs_eq {i : Instr} {s t : State} (h : Effect i s t) : t.errs = (s.errs || decide (t.err ≠ .ok)) := by
  obtain ⟨herr, e⟩ | ⟨herr, e⟩ := effect_errs h <;> simp [herr, e]

/-- Settles O32: a command checks in the order of R191 for all the codes that can apply to it. -/
theorem firstApplicableErrorIsReported : Obligations.FirstApplicableErrorIsReported := by
  intro i s
  obtain ⟨t, ht⟩ := exec_completes i s
  have he := exec_effect i s t ht
  exact ⟨t, ht, exec_isReported ht, effect_errs_eq he, fun hi hok => exec_zeroLength_of_ok hi ht hok⟩

end Sys2Proof.Machine
end

section
namespace Sys2Proof.Machine

/-! ### A command placed with `withFetchWord` (log 2) -/

/-- A whole word is latched as it is, and the engine has the next turn. -/
theorem withFetchWord_toNat (s : State) (w : Word) :
    s.withFetchWord 32 w.toNat = { s with pending := some ⟨w, s.data⟩, sched := .engine :: s.sched } := by
  have hw : BitVec.ofNat 32 (w.toNat % 2 ^ 32) = w := by
    rw [Nat.mod_eq_of_lt w.isLt, BitVec.ofNat_toNat, BitVec.setWidth_eq]
  rw [State.withFetchWord, hw]

/-- Settles O9: the next step is an engine turn on the placed word, which the decoder reads back as the command (O1). -/
theorem fetchWordRunsTheCommand : Obligations.FetchWordRunsTheCommand := by
  intro s i hwf
  rw [withFetchWord_toNat]
  exact (step_engine rfl).trans (engineTurn_ok _ ⟨encode i, s.data⟩ i rfl (decodeEncodeAgree i hwf))

end Sys2Proof.Machine
end
